-- ==== Sys2Proof/Word.lean ====
section
/-! DEFINITION. The word types of the rendering core: bytes of the four regions, 16-bit register, entry and
attribute words, and 15-bit colors (spec/20_memory.md R64; spec/42_palette_lookup.md R156). -/

namespace Sys2Proof

/-- One byte of a region, the unit every region is addressed in (R20). -/
abbrev Byte := BitVec 8

/-- One 16-bit word: an IO register, a text screen entry, an OAM attribute or a palette word (R64). -/
abbrev Half := BitVec 16

/-- A 15-bit color: red 4:0, green 9:5, blue 14:10 (R156). -/
abbrev Color15 := BitVec 15

end Sys2Proof
end

