-- ==== Sys2Proof/Config.lean ====
section
/-! DEFINITION. What is fixed for the machine: the sizes of R6, the four regions of R20, the two parameters
of R7 that the source leaves open (kept as data, so that a statement can range over both readings), and the
one free value, the byte a VRAM read outside VRAM returns (R66). -/

namespace Sys2Proof.Config

/-- Visible scanlines (R6, `SCREEN_H`). -/
abbrev screenH : Nat := 160

/-- Columns of a scanline (R6, `SCREEN_W`). -/
abbrev screenW : Nat := 240

/-- Object descriptors in OAM (R6, `NUM_OBJ`). -/
abbrev numObj : Nat := 128

/-- The four host-owned regions, each its own address space from offset 0 (R20, R60). -/
inductive Region where
  | io
  | vram
  | oam
  | pal
  deriving DecidableEq, Repr

/-- The size of a region in bytes (R6, R20). -/
def Region.size : Region → Nat
  | .io => 0x400
  | .vram => 0x18000
  | .oam => 0x400
  | .pal => 0x400

/-- The layer mode 2 draws first when BG2 and BG3 have equal priority: `P_MODE2_TIE` of R7. -/
inductive Mode2Tie where
  | bg2First
  | bg3First
  deriving DecidableEq, Repr

/-- The parameters R7 leaves to the machine at hand. They never change during a run. -/
structure Params where
  /-- `P_LINE_HOOK`: may the host write the regions between two scanlines of one frame (R70)? -/
  lineHook : Bool
  /-- `P_MODE2_TIE` (R223). -/
  mode2Tie : Mode2Tie
  deriving DecidableEq, Repr

/-- The defaults R7 names: no hook, BG2 first. -/
def Params.default : Params := { lineHook := false, mode2Tie := .bg2First }

/-- `P_OOB_READ` (R7, R66): the byte drawn by the `k`-th VRAM read at an offset of 0x18000 or above. It has no
body, so no proof can depend on its value. -/
opaque oobByte : Nat → Byte

end Sys2Proof.Config
end

