-- ==== Sys2Proof/Syntax.lean ====
section
/-! DEFINITION. The formats of spec/30_encoding.md R80 that hold a selector, and Instr: one constructor per row
of spec/opcode_table.json. The block runs no instruction stream (R21, R73): its "opcodes" are the field values
of R99 that select what it does. An instruction here is one decoded selector, together with the other fields of
the word it stands in. -/

namespace Sys2Proof

/-- `F_DISPCNT` (R81; meanings in R23). -/
structure DispCnt where
  bgMode : BitVec 3
  /-- bits 5:3, ignored (R23) -/
  bits53 : BitVec 3
  objMap : Bool
  /-- bit 7, ignored (R23) -/
  forcedBlank : Bool
  /-- bits 11:8, BG3EN … BG0EN -/
  bgEn : BitVec 4
  objEn : Bool
  /-- bits 15:13, ignored (R23) -/
  windows : BitVec 3
  deriving DecidableEq, Repr

/-- `F_BGCNT` (R82; meanings in R24). -/
structure BgCnt where
  prio : BitVec 2
  cbb : BitVec 2
  /-- bits 5:4, ignored (R24) -/
  bits54 : BitVec 2
  /-- bit 6, ignored (R24) -/
  mosaic : Bool
  depth : Bool
  sbb : BitVec 5
  overflow : Bool
  size : BitVec 2
  deriving DecidableEq, Repr

/-- `F_BLDCNT` (R86; meanings in R28). -/
structure BldCnt where
  /-- bits 3:0, T_BG3 … T_BG0 -/
  topBg : BitVec 4
  topObj : Bool
  topBackdrop : Bool
  mode : BitVec 2
  /-- bits 11:8, B_BG3 … B_BG0 -/
  bottomBg : BitVec 4
  bottomObj : Bool
  bottomBackdrop : Bool
  /-- bits 15:14, ignored (R28) -/
  bitsFE : BitVec 2
  deriving DecidableEq, Repr

/-- `F_SE_TEXT`, the regular screen entry (R88). -/
structure SeText where
  tile : BitVec 10
  hflip : Bool
  vflip : Bool
  bank : BitVec 4
  deriving DecidableEq, Repr

/-- `F_ATTR0` (R92). -/
structure Attr0 where
  y : BitVec 8
  rm : BitVec 2
  gfx : BitVec 2
  /-- bit 12, ignored (R203) -/
  mosaic : Bool
  depth : Bool
  shape : BitVec 2
  deriving DecidableEq, Repr

/-- `F_ATTR1` (R93). Bits 13:9 are the matrix index of an affine object; bits 13 and 12 are the flips of a
regular one. -/
structure Attr1 where
  x : BitVec 9
  bitsB9 : BitVec 3
  hflip : Bool
  vflip : Bool
  size : BitVec 2
  deriving DecidableEq, Repr

/-- `F_ATTR2` (R94). -/
structure Attr2 where
  tile : BitVec 10
  prio : BitVec 2
  bank : BitVec 4
  deriving DecidableEq, Repr

/-- The key `(attr1 << 16) | attr0` that selects an object's size (R96, the table's `F_ATTR0+F_ATTR1`). -/
structure ObjKey where
  a0 : Attr0
  a1 : Attr1
  deriving DecidableEq, Repr

/-- The selector fields of R99: which field of which format an instruction is decoded from. -/
inductive Selector where
  /-- DISPCNT.BGMODE -/
  | bgMode
  /-- DISPCNT.OBJMAP -/
  | objMapping
  /-- BGnCNT.CD of a regular layer -/
  | bgDepth
  /-- BGnCNT.SIZE of a regular layer -/
  | textSize
  /-- BGnCNT.SIZE of an affine layer -/
  | affSize
  /-- BGnCNT.OVF of an affine layer -/
  | affOverflow
  /-- a text screen entry -/
  | seText
  /-- an affine screen entry -/
  | seAff
  /-- attr0.RM -/
  | objRender
  /-- attr0.GFX -/
  | objGfx
  /-- attr0.CM -/
  | objDepth
  /-- (attr0.SHAPE, attr1.SIZE) -/
  | objSize
  /-- BLDCNT.MODE -/
  | blendMode
  /-- the host's request RENDER, which has no word (R102) -/
  | request
  deriving DecidableEq, Repr

/-- The opcode table's rows, in its order. -/
inductive Instr where
  | mode0 (d : DispCnt)
  | mode1 (d : DispCnt)
  | mode2 (d : DispCnt)
  | mode3 (d : DispCnt)
  | mode4 (d : DispCnt)
  | mode5 (d : DispCnt)
  | mode6 (d : DispCnt)
  | mode7 (d : DispCnt)
  | objMap2D (d : DispCnt)
  | objMap1D (d : DispCnt)
  | bg4bpp (b : BgCnt)
  | bg8bpp (b : BgCnt)
  | text32x32 (b : BgCnt)
  | text64x32 (b : BgCnt)
  | text32x64 (b : BgCnt)
  | text64x64 (b : BgCnt)
  | aff128 (b : BgCnt)
  | aff256 (b : BgCnt)
  | aff512 (b : BgCnt)
  | aff1024 (b : BgCnt)
  | affClip (b : BgCnt)
  | affWrap (b : BgCnt)
  | seText (e : SeText)
  | seAff (tile : BitVec 8)
  | objRegular (a : Attr0)
  | objAffine (a : Attr0)
  | objHidden (a : Attr0)
  | objAffineDouble (a : Attr0)
  | objGfxNormal (a : Attr0)
  | objGfxSemitrans (a : Attr0)
  | objGfxWindow (a : Attr0)
  | objGfxProhibited (a : Attr0)
  | obj4bpp (a : Attr0)
  | obj8bpp (a : Attr0)
  | objSize8x8 (k : ObjKey)
  | objSize16x16 (k : ObjKey)
  | objSize32x32 (k : ObjKey)
  | objSize64x64 (k : ObjKey)
  | objSize16x8 (k : ObjKey)
  | objSize32x8 (k : ObjKey)
  | objSize32x16 (k : ObjKey)
  | objSize64x32 (k : ObjKey)
  | objSize8x16 (k : ObjKey)
  | objSize8x32 (k : ObjKey)
  | objSize16x32 (k : ObjKey)
  | objSize32x64 (k : ObjKey)
  | objShapeProhibited (k : ObjKey)
  | blendOff (b : BldCnt)
  | blendAlpha (b : BldCnt)
  | blendWhite (b : BldCnt)
  | blendBlack (b : BldCnt)
  | render
  deriving DecidableEq, Repr

/-- The selector an instruction is a value of (R99). -/
def Instr.selector : Instr → Selector
  | .mode0 _ | .mode1 _ | .mode2 _ | .mode3 _ | .mode4 _ | .mode5 _ | .mode6 _ | .mode7 _ => .bgMode
  | .objMap2D _ | .objMap1D _ => .objMapping
  | .bg4bpp _ | .bg8bpp _ => .bgDepth
  | .text32x32 _ | .text64x32 _ | .text32x64 _ | .text64x64 _ => .textSize
  | .aff128 _ | .aff256 _ | .aff512 _ | .aff1024 _ => .affSize
  | .affClip _ | .affWrap _ => .affOverflow
  | .seText _ => .seText
  | .seAff _ => .seAff
  | .objRegular _ | .objAffine _ | .objHidden _ | .objAffineDouble _ => .objRender
  | .objGfxNormal _ | .objGfxSemitrans _ | .objGfxWindow _ | .objGfxProhibited _ => .objGfx
  | .obj4bpp _ | .obj8bpp _ => .objDepth
  | .objSize8x8 _ | .objSize16x16 _ | .objSize32x32 _ | .objSize64x64 _
  | .objSize16x8 _ | .objSize32x8 _ | .objSize32x16 _ | .objSize64x32 _
  | .objSize8x16 _ | .objSize8x32 _ | .objSize16x32 _ | .objSize32x64 _
  | .objShapeProhibited _ => .objSize
  | .blendOff _ | .blendAlpha _ | .blendWhite _ | .blendBlack _ => .blendMode
  | .render => .request

end Sys2Proof
end

