-- ==== Sys2Proof/WellFormed.lean ====
section
/-! DEFINITION. When an instruction is well formed: the selector field of the word it carries has the value its
row of the opcode table fixes (R99, R96). Every other field may hold any value (R100). -/

namespace Sys2Proof

/-- The selector field of the word an instruction carries has its row's value. Each clause is one `match`/`mask`
row of spec/opcode_table.json. -/
def Instr.wf : Instr → Bool
  | .mode0 d => d.bgMode == 0
  | .mode1 d => d.bgMode == 1
  | .mode2 d => d.bgMode == 2
  | .mode3 d => d.bgMode == 3
  | .mode4 d => d.bgMode == 4
  | .mode5 d => d.bgMode == 5
  | .mode6 d => d.bgMode == 6
  | .mode7 d => d.bgMode == 7
  | .objMap2D d => !d.objMap
  | .objMap1D d => d.objMap
  | .bg4bpp b => !b.depth
  | .bg8bpp b => b.depth
  | .text32x32 b => b.size == 0
  | .text64x32 b => b.size == 1
  | .text32x64 b => b.size == 2
  | .text64x64 b => b.size == 3
  | .aff128 b => b.size == 0
  | .aff256 b => b.size == 1
  | .aff512 b => b.size == 2
  | .aff1024 b => b.size == 3
  | .affClip b => !b.overflow
  | .affWrap b => b.overflow
  | .seText _ => true
  | .seAff _ => true
  | .objRegular a => a.rm == 0
  | .objAffine a => a.rm == 1
  | .objHidden a => a.rm == 2
  | .objAffineDouble a => a.rm == 3
  | .objGfxNormal a => a.gfx == 0
  | .objGfxSemitrans a => a.gfx == 1
  | .objGfxWindow a => a.gfx == 2
  | .objGfxProhibited a => a.gfx == 3
  | .obj4bpp a => !a.depth
  | .obj8bpp a => a.depth
  | .objSize8x8 k => k.a0.shape == 0 && k.a1.size == 0
  | .objSize16x16 k => k.a0.shape == 0 && k.a1.size == 1
  | .objSize32x32 k => k.a0.shape == 0 && k.a1.size == 2
  | .objSize64x64 k => k.a0.shape == 0 && k.a1.size == 3
  | .objSize16x8 k => k.a0.shape == 1 && k.a1.size == 0
  | .objSize32x8 k => k.a0.shape == 1 && k.a1.size == 1
  | .objSize32x16 k => k.a0.shape == 1 && k.a1.size == 2
  | .objSize64x32 k => k.a0.shape == 1 && k.a1.size == 3
  | .objSize8x16 k => k.a0.shape == 2 && k.a1.size == 0
  | .objSize8x32 k => k.a0.shape == 2 && k.a1.size == 1
  | .objSize16x32 k => k.a0.shape == 2 && k.a1.size == 2
  | .objSize32x64 k => k.a0.shape == 2 && k.a1.size == 3
  | .objShapeProhibited k => k.a0.shape == 3
  | .blendOff b => b.mode == 0
  | .blendAlpha b => b.mode == 1
  | .blendWhite b => b.mode == 2
  | .blendBlack b => b.mode == 3
  | .render => true

end Sys2Proof
end

