-- ==== Sys2Proof/Decode.lean ====
section
/-! DEFINITION. The decoder: from a selector and the bytes it is read from to an instruction, total on any bytes.
The layouts are those of spec/30_encoding.md R81–R97, the order of bytes is R62's, and the values of each
selector are the rows of R99. After it, in the same file: the encoder, and the opcode table as data with the
host's two readings of it. -/

namespace Sys2Proof

/-- A 16-bit word from its two bytes, the low byte at the lower offset (R62). -/
def half (lo hi : Byte) : Half := hi ++ lo

/-- The two bytes of a 16-bit word, low byte first (R62). -/
def halfBytes (w : Half) : List Byte := [w.extractLsb' 0 8, w.extractLsb' 8 8]

/-! ### Formats -/

/-- R81. -/
def DispCnt.ofWord (w : Half) : DispCnt where
  bgMode := w.extractLsb' 0 3
  bits53 := w.extractLsb' 3 3
  objMap := w.getLsbD 6
  forcedBlank := w.getLsbD 7
  bgEn := w.extractLsb' 8 4
  objEn := w.getLsbD 12
  windows := w.extractLsb' 13 3

/-- R81. -/
def DispCnt.toWord (d : DispCnt) : Half :=
  d.windows ++ BitVec.ofBool d.objEn ++ d.bgEn ++ BitVec.ofBool d.forcedBlank ++ BitVec.ofBool d.objMap
    ++ d.bits53 ++ d.bgMode

/-- R82. -/
def BgCnt.ofWord (w : Half) : BgCnt where
  prio := w.extractLsb' 0 2
  cbb := w.extractLsb' 2 2
  bits54 := w.extractLsb' 4 2
  mosaic := w.getLsbD 6
  depth := w.getLsbD 7
  sbb := w.extractLsb' 8 5
  overflow := w.getLsbD 13
  size := w.extractLsb' 14 2

/-- R82. -/
def BgCnt.toWord (b : BgCnt) : Half :=
  b.size ++ BitVec.ofBool b.overflow ++ b.sbb ++ BitVec.ofBool b.depth ++ BitVec.ofBool b.mosaic
    ++ b.bits54 ++ b.cbb ++ b.prio

/-- R86. -/
def BldCnt.ofWord (w : Half) : BldCnt where
  topBg := w.extractLsb' 0 4
  topObj := w.getLsbD 4
  topBackdrop := w.getLsbD 5
  mode := w.extractLsb' 6 2
  bottomBg := w.extractLsb' 8 4
  bottomObj := w.getLsbD 12
  bottomBackdrop := w.getLsbD 13
  bitsFE := w.extractLsb' 14 2

/-- R86. -/
def BldCnt.toWord (b : BldCnt) : Half :=
  b.bitsFE ++ BitVec.ofBool b.bottomBackdrop ++ BitVec.ofBool b.bottomObj ++ b.bottomBg ++ b.mode
    ++ BitVec.ofBool b.topBackdrop ++ BitVec.ofBool b.topObj ++ b.topBg

/-- SE_DECODE (R88, R126). -/
def SeText.ofWord (w : Half) : SeText where
  tile := w.extractLsb' 0 10
  hflip := w.getLsbD 10
  vflip := w.getLsbD 11
  bank := w.extractLsb' 12 4

/-- R88. -/
def SeText.toWord (e : SeText) : Half :=
  e.bank ++ BitVec.ofBool e.vflip ++ BitVec.ofBool e.hflip ++ e.tile

/-- R92. -/
def Attr0.ofWord (w : Half) : Attr0 where
  y := w.extractLsb' 0 8
  rm := w.extractLsb' 8 2
  gfx := w.extractLsb' 10 2
  mosaic := w.getLsbD 12
  depth := w.getLsbD 13
  shape := w.extractLsb' 14 2

/-- R92. -/
def Attr0.toWord (a : Attr0) : Half :=
  a.shape ++ BitVec.ofBool a.depth ++ BitVec.ofBool a.mosaic ++ a.gfx ++ a.rm ++ a.y

/-- R93. -/
def Attr1.ofWord (w : Half) : Attr1 where
  x := w.extractLsb' 0 9
  bitsB9 := w.extractLsb' 9 3
  hflip := w.getLsbD 12
  vflip := w.getLsbD 13
  size := w.extractLsb' 14 2

/-- R93. -/
def Attr1.toWord (a : Attr1) : Half :=
  a.size ++ BitVec.ofBool a.vflip ++ BitVec.ofBool a.hflip ++ a.bitsB9 ++ a.x

/-- `MATRIX`, bits 13:9 of an affine object's attr1 (R93). -/
def Attr1.matrix (a : Attr1) : BitVec 5 := BitVec.ofBool a.vflip ++ BitVec.ofBool a.hflip ++ a.bitsB9

/-- R94. -/
def Attr2.ofWord (w : Half) : Attr2 where
  tile := w.extractLsb' 0 10
  prio := w.extractLsb' 10 2
  bank := w.extractLsb' 12 4

/-! ### The selectors (R99) -/

/-- DISPCNT.BGMODE: MODE0–MODE7. -/
def decodeBgMode (w : Half) : Instr :=
  let d := DispCnt.ofWord w
  match d.bgMode.toNat with
  | 0 => .mode0 d
  | 1 => .mode1 d
  | 2 => .mode2 d
  | 3 => .mode3 d
  | 4 => .mode4 d
  | 5 => .mode5 d
  | 6 => .mode6 d
  | _ => .mode7 d

/-- DISPCNT.OBJMAP. -/
def decodeObjMapping (w : Half) : Instr :=
  let d := DispCnt.ofWord w
  match d.objMap with
  | false => .objMap2D d
  | true => .objMap1D d

/-- BGnCNT.CD of a regular layer. -/
def decodeBgDepth (w : Half) : Instr :=
  let b := BgCnt.ofWord w
  match b.depth with
  | false => .bg4bpp b
  | true => .bg8bpp b

/-- BGnCNT.SIZE of a regular layer (R123). -/
def decodeTextSize (w : Half) : Instr :=
  let b := BgCnt.ofWord w
  match b.size.toNat with
  | 0 => .text32x32 b
  | 1 => .text64x32 b
  | 2 => .text32x64 b
  | _ => .text64x64 b

/-- BGnCNT.SIZE of an affine layer (R169). -/
def decodeAffSize (w : Half) : Instr :=
  let b := BgCnt.ofWord w
  match b.size.toNat with
  | 0 => .aff128 b
  | 1 => .aff256 b
  | 2 => .aff512 b
  | _ => .aff1024 b

/-- BGnCNT.OVF of an affine layer (R170, R171). -/
def decodeAffOverflow (w : Half) : Instr :=
  let b := BgCnt.ofWord w
  match b.overflow with
  | false => .affClip b
  | true => .affWrap b

/-- attr0.RM (R92). -/
def decodeObjRender (w : Half) : Instr :=
  let a := Attr0.ofWord w
  match a.rm.toNat with
  | 0 => .objRegular a
  | 1 => .objAffine a
  | 2 => .objHidden a
  | _ => .objAffineDouble a

/-- attr0.GFX (R92). -/
def decodeObjGfx (w : Half) : Instr :=
  let a := Attr0.ofWord w
  match a.gfx.toNat with
  | 0 => .objGfxNormal a
  | 1 => .objGfxSemitrans a
  | 2 => .objGfxWindow a
  | _ => .objGfxProhibited a

/-- attr0.CM (R92). -/
def decodeObjDepth (w : Half) : Instr :=
  let a := Attr0.ofWord w
  match a.depth with
  | false => .obj4bpp a
  | true => .obj8bpp a

/-- (attr0.SHAPE, attr1.SIZE) (R96). -/
def decodeObjSize (w0 w1 : Half) : Instr :=
  let k : ObjKey := { a0 := Attr0.ofWord w0, a1 := Attr1.ofWord w1 }
  match k.a0.shape.toNat, k.a1.size.toNat with
  | 0, 0 => .objSize8x8 k
  | 0, 1 => .objSize16x16 k
  | 0, 2 => .objSize32x32 k
  | 0, _ => .objSize64x64 k
  | 1, 0 => .objSize16x8 k
  | 1, 1 => .objSize32x8 k
  | 1, 2 => .objSize32x16 k
  | 1, _ => .objSize64x32 k
  | 2, 0 => .objSize8x16 k
  | 2, 1 => .objSize8x32 k
  | 2, 2 => .objSize16x32 k
  | 2, _ => .objSize32x64 k
  | _, _ => .objShapeProhibited k

/-- BLDCNT.MODE (R28). -/
def decodeBlendMode (w : Half) : Instr :=
  let b := BldCnt.ofWord w
  match b.mode.toNat with
  | 0 => .blendOff b
  | 1 => .blendAlpha b
  | 2 => .blendWhite b
  | _ => .blendBlack b

/-! ### The decoder -/

/-- Why bytes are not an instruction of a selector. Every value of every selector field is decoded (R99), so the
one reason is that the word is not all there. -/
inductive DecodeReject where
  /-- fewer bytes than the selector's format has (R80, R101) -/
  | truncated (sel : Selector)
  deriving DecidableEq, Repr

/-- The bytes a selector is decoded from (R80; the request RENDER has none, R102). -/
def Selector.width : Selector → Nat
  | .seAff => 1
  | .objSize => 4
  | .request => 0
  | .bgMode | .objMapping | .bgDepth | .textSize | .affSize | .affOverflow | .seText
  | .objRender | .objGfx | .objDepth | .blendMode => 2

/-- Decodes one 16-bit word off the front of the bytes. -/
def decodeHalf (sel : Selector) (f : Half → Instr) : List Byte → Except DecodeReject (Instr × List Byte)
  | lo :: hi :: rest => .ok (f (half lo hi), rest)
  | _ => .error (.truncated sel)

/-- The decoder: the instruction a selector's bytes stand for, and the bytes after it. -/
def decode (sel : Selector) (bytes : List Byte) : Except DecodeReject (Instr × List Byte) :=
  match sel with
  | .bgMode => decodeHalf sel decodeBgMode bytes
  | .objMapping => decodeHalf sel decodeObjMapping bytes
  | .bgDepth => decodeHalf sel decodeBgDepth bytes
  | .textSize => decodeHalf sel decodeTextSize bytes
  | .affSize => decodeHalf sel decodeAffSize bytes
  | .affOverflow => decodeHalf sel decodeAffOverflow bytes
  | .seText => decodeHalf sel (fun w => .seText (SeText.ofWord w)) bytes
  | .seAff =>
    match bytes with
    | b :: rest => .ok (.seAff b, rest)
    | [] => .error (.truncated sel)
  | .objRender => decodeHalf sel decodeObjRender bytes
  | .objGfx => decodeHalf sel decodeObjGfx bytes
  | .objDepth => decodeHalf sel decodeObjDepth bytes
  | .objSize =>
    match bytes with
    | b0 :: b1 :: b2 :: b3 :: rest => .ok (decodeObjSize (half b0 b1) (half b2 b3), rest)
    | _ => .error (.truncated sel)
  | .blendMode => decodeHalf sel decodeBlendMode bytes
  | .request => .ok (.render, bytes)

/-! ### The encoder -/

/-- The bytes of an instruction's word, in the order they stand in their region (R62, R80). -/
def encode : Instr → List Byte
  | .mode0 d | .mode1 d | .mode2 d | .mode3 d | .mode4 d | .mode5 d | .mode6 d | .mode7 d
  | .objMap2D d | .objMap1D d => halfBytes d.toWord
  | .bg4bpp b | .bg8bpp b
  | .text32x32 b | .text64x32 b | .text32x64 b | .text64x64 b
  | .aff128 b | .aff256 b | .aff512 b | .aff1024 b
  | .affClip b | .affWrap b => halfBytes b.toWord
  | .seText e => halfBytes e.toWord
  | .seAff tile => [tile]
  | .objRegular a | .objAffine a | .objHidden a | .objAffineDouble a
  | .objGfxNormal a | .objGfxSemitrans a | .objGfxWindow a | .objGfxProhibited a
  | .obj4bpp a | .obj8bpp a => halfBytes a.toWord
  | .objSize8x8 k | .objSize16x16 k | .objSize32x32 k | .objSize64x64 k
  | .objSize16x8 k | .objSize32x8 k | .objSize32x16 k | .objSize64x32 k
  | .objSize8x16 k | .objSize8x32 k | .objSize16x32 k | .objSize32x64 k
  | .objShapeProhibited k => halfBytes k.a0.toWord ++ halfBytes k.a1.toWord
  | .blendOff b | .blendAlpha b | .blendWhite b | .blendBlack b => halfBytes b.toWord
  | .render => []

/-! ### The opcode table as data

The table's rows overlap: a row is a value of ONE field of a word whose other fields are other selectors, so 0 is a
word of MODE0, of OBJMAP_2D, of BG_4BPP and of BLEND_OFF alike, and only the place the block reads the word from
tells them apart (R99; notes/assumptions/3.md). -/

/-- One row of spec/opcode_table.json: its selector, how many bits the row's fixed bits and fields reach up to in
whole bytes, its match and mask, and the bits its declared fields cover. -/
structure TableRow where
  sel : Selector
  nbits : Nat
  mtch : Nat
  mask : Nat
  fieldBits : Nat
  deriving DecidableEq, Repr

/-- The F_DISPCNT rows. -/
def tableDispCnt : List TableRow :=
  [⟨.bgMode, 8, 0, 7, 0⟩, ⟨.bgMode, 8, 1, 7, 0⟩, ⟨.bgMode, 8, 2, 7, 0⟩, ⟨.bgMode, 8, 3, 7, 0⟩,
   ⟨.bgMode, 8, 4, 7, 0⟩, ⟨.bgMode, 8, 5, 7, 0⟩, ⟨.bgMode, 8, 6, 7, 0⟩, ⟨.bgMode, 8, 7, 7, 0⟩,
   ⟨.objMapping, 8, 0, 0x40, 0⟩, ⟨.objMapping, 8, 0x40, 0x40, 0⟩]

/-- The F_BGCNT rows. -/
def tableBgCnt : List TableRow :=
  [⟨.bgDepth, 8, 0, 0x80, 0⟩, ⟨.bgDepth, 8, 0x80, 0x80, 0⟩,
   ⟨.textSize, 16, 0, 0xC000, 0⟩, ⟨.textSize, 16, 0x4000, 0xC000, 0⟩,
   ⟨.textSize, 16, 0x8000, 0xC000, 0⟩, ⟨.textSize, 16, 0xC000, 0xC000, 0⟩,
   ⟨.affSize, 16, 0, 0xC000, 0⟩, ⟨.affSize, 16, 0x4000, 0xC000, 0⟩,
   ⟨.affSize, 16, 0x8000, 0xC000, 0⟩, ⟨.affSize, 16, 0xC000, 0xC000, 0⟩,
   ⟨.affOverflow, 16, 0, 0x2000, 0⟩, ⟨.affOverflow, 16, 0x2000, 0x2000, 0⟩]

/-- The rows of the two screen entries. -/
def tableEntries : List TableRow := [⟨.seText, 16, 0, 0, 0xFFFF⟩, ⟨.seAff, 8, 0, 0, 0xFF⟩]

/-- The F_ATTR0 rows. -/
def tableAttr0 : List TableRow :=
  [⟨.objRender, 16, 0, 0x300, 0⟩, ⟨.objRender, 16, 0x100, 0x300, 0⟩,
   ⟨.objRender, 16, 0x200, 0x300, 0⟩, ⟨.objRender, 16, 0x300, 0x300, 0⟩,
   ⟨.objGfx, 16, 0, 0xC00, 0⟩, ⟨.objGfx, 16, 0x400, 0xC00, 0⟩,
   ⟨.objGfx, 16, 0x800, 0xC00, 0⟩, ⟨.objGfx, 16, 0xC00, 0xC00, 0⟩,
   ⟨.objDepth, 16, 0, 0x2000, 0⟩, ⟨.objDepth, 16, 0x2000, 0x2000, 0⟩]

/-- The F_ATTR0+F_ATTR1 rows. -/
def tableObjSize : List TableRow :=
  [⟨.objSize, 32, 0, 0xC000C000, 0⟩, ⟨.objSize, 32, 0x40000000, 0xC000C000, 0⟩,
   ⟨.objSize, 32, 0x80000000, 0xC000C000, 0⟩, ⟨.objSize, 32, 0xC0000000, 0xC000C000, 0⟩,
   ⟨.objSize, 32, 0x4000, 0xC000C000, 0⟩, ⟨.objSize, 32, 0x40004000, 0xC000C000, 0⟩,
   ⟨.objSize, 32, 0x80004000, 0xC000C000, 0⟩, ⟨.objSize, 32, 0xC0004000, 0xC000C000, 0⟩,
   ⟨.objSize, 32, 0x8000, 0xC000C000, 0⟩, ⟨.objSize, 32, 0x40008000, 0xC000C000, 0⟩,
   ⟨.objSize, 32, 0x80008000, 0xC000C000, 0⟩, ⟨.objSize, 32, 0xC0008000, 0xC000C000, 0⟩,
   ⟨.objSize, 16, 0xC000, 0xC000, 0⟩]

/-- The F_BLDCNT rows and the request's, which the table gives no bits. -/
def tableBldCnt : List TableRow :=
  [⟨.blendMode, 8, 0, 0xC0, 0⟩, ⟨.blendMode, 8, 0x40, 0xC0, 0⟩,
   ⟨.blendMode, 8, 0x80, 0xC0, 0⟩, ⟨.blendMode, 8, 0xC0, 0xC0, 0⟩, ⟨.request, 0, 0, 0, 0⟩]

/-- The table, in its order. -/
def tableRows : List TableRow :=
  tableDispCnt ++ tableBgCnt ++ tableEntries ++ tableAttr0 ++ tableObjSize ++ tableBldCnt

/-- A row is the whole account of a bare word: the word is the row's match and nothing else. -/
def TableRow.exact (nbits w : Nat) (r : TableRow) : Bool :=
  (r.nbits == nbits || (r.sel.width * 8 == nbits)) && r.mtch == w && r.mask != 0

/-- The word's bits outside the row's match all lie in fields the row declares. -/
def TableRow.covers (nbits w : Nat) (r : TableRow) : Bool :=
  r.nbits == nbits && (w &&& r.mask) == r.mtch && w < 2 ^ nbits && r.mask ||| r.fieldBits == 2 ^ nbits - 1

/-- The word has the row's fixed bits. -/
def TableRow.fits (nbits w : Nat) (r : TableRow) : Bool :=
  r.nbits == nbits && (w &&& r.mask) == r.mtch

/-- Which selector a bare word of the table is read under: the first row that is exactly the word, with its own
length before that of its format; else the first that accounts for every bit; else the first whose fixed bits it
has (DESIGN CHOICE, notes/assumptions/3.md: the word alone does not say). -/
def tableSelector (nbits w : Nat) : Option Selector :=
  match tableRows.find? (fun r => r.nbits == nbits && TableRow.exact nbits w r) with
  | some r => some r.sel
  | none =>
    match tableRows.find? (TableRow.exact nbits w) with
    | some r => some r.sel
    | none =>
      match tableRows.find? (TableRow.covers nbits w) with
      | some r => some r.sel
      | none => (tableRows.find? (TableRow.fits nbits w)).map (·.sel)

/-- The `n` low bytes of a number, least significant first. -/
def bytesOfNat : Nat → Nat → List Byte
  | 0, _ => []
  | n + 1, w => BitVec.ofNat 8 w :: bytesOfNat n (w / 256)

/-- The instruction the decoder reads from a table word: the word's bytes, low byte first, under the selector
`tableSelector` reads it with. -/
def decodeTableWord (nbits w : Nat) : Option Instr :=
  match tableSelector nbits w with
  | none => none
  | some sel =>
    match decode sel (bytesOfNat sel.width w) with
    | .ok (i, _) => some i
    | .error _ => none

end Sys2Proof
end

