-- ==== Sys2Proof/Machine/State.lean ====
section
/-! DEFINITION. The machine's state as plain data (spec/10_state.md R20–R45), the reasons a step can stop, and
the state after reset (R44, R280). -/

namespace Sys2Proof.Machine

open Sys2Proof.Config

/-- The host-owned regions (R20): each a list of (offset, byte), offsets strictly rising and no byte equal to what
an unlisted offset reads as. The operations over them are in Machine/Ops.lean. -/
structure Memory where
  io : List Host.Cell
  vram : List Host.Cell
  oam : List Host.Cell
  pal : List Host.Cell
  deriving DecidableEq, Repr

/-- One column's compositing record (R215): the fill count, slot 0's color and top flag, slot 1's optional color. -/
structure Pixel where
  n : Fin 3
  c0 : Color15
  t0 : Bool
  c1 : Option Color15
  deriving DecidableEq, Repr

/-- The empty Pixel (R215). `c0` is unused while `n = 0`; the 0 is DESIGN CHOICE, notes/assumptions/9.md. -/
def Pixel.empty : Pixel := { n := 0, c0 := 0, t0 := false, c1 := none }

/-- The Pixel row (R37): one Pixel for each column. -/
abbrev Row := Vector Pixel 240

/-- The row of empty Pixels every line starts with (R222). -/
def Row.empty : Row := Vector.replicate 240 Pixel.empty

/-- The frame sink (R42): 160 lines of 240 cells of 15 bits, the buffer the host hands to RENDER_FRAME. -/
abbrev Sink := Vector (Vector Color15 240) 160

/-- A sink with every cell 0. -/
def Sink.blank : Sink := Vector.replicate 160 (Vector.replicate 240 0)

/-- One decoded object descriptor (R185). -/
structure ObjDesc where
  idx : Fin 128
  y : Int
  rm : BitVec 2
  gfx : BitVec 2
  cm : Bool
  shape : BitVec 2
  x : Int
  size : BitVec 2
  hf : Bool
  vf : Bool
  mat : BitVec 5
  tile : BitVec 10
  prio : BitVec 2
  pb : BitVec 4
  w : Nat
  h : Nat
  deriving DecidableEq, Repr

/-- The layers that have affine state (R39, R120: "for layers 2 and 3 only"). -/
inductive AffLayer where
  | bg2
  | bg3
  deriving DecidableEq, Repr

/-- A background as a mode draws it: regular, or affine (R220). -/
inductive Layer where
  | text (n : Fin 4)
  | affine (n : AffLayer)
  deriving DecidableEq, Repr

/-- Where the SELECT phase stands: at the mode dispatch, or at one of the three selectors of OAM entry `i`
(R219, R190). The steps inside a phase are DESIGN CHOICE, notes/assumptions/1.md. -/
inductive ScanPos where
  /-- about to decode DISPCNT.BGMODE -/
  | mode
  /-- about to decode attr0.RM of entry `i` -/
  | render (i : Fin 128)
  /-- about to decode attr0.GFX of entry `i` -/
  | gfx (i : Fin 128)
  /-- about to decode (attr0.SHAPE, attr1.SIZE) of entry `i` -/
  | size (i : Fin 128)
  deriving DecidableEq, Repr

/-- Where a draw step stands: the next selector to decode, with the operands the steps before it have made
(R127, R174, R196, R200). -/
inductive DrawPos where
  /-- regular layer `n`, column `c`: about to decode BGnCNT.SIZE -/
  | textSize (n : Fin 4) (c : Fin 240)
  /-- about to decode the screen entry at VRAM offset `addr`; (`fx`, `fy`) is the pixel within its tile -/
  | textEntry (n : Fin 4) (c : Fin 240) (addr : Nat) (fx fy : Fin 8)
  /-- about to decode BGnCNT.CD; (`px`, `py`) is the pixel within the tile after the flips -/
  | textDepth (n : Fin 4) (c : Fin 240) (tile : BitVec 10) (bank : BitVec 4) (px py : Fin 8)
  /-- affine layer `n`, column `c`: about to decode BGnCNT.SIZE -/
  | affSize (n : AffLayer) (c : Fin 240)
  /-- about to decode BGnCNT.OVF; the map is `size` pixels a side and the texel is (`tx`, `ty`) -/
  | affOverflow (n : AffLayer) (c : Fin 240) (size : Nat) (tx ty : Int)
  /-- about to decode the map byte at VRAM offset `addr`; tile data starts at `base` -/
  | affEntry (n : AffLayer) (c : Fin 240) (addr base : Nat) (fx fy : Fin 8)
  /-- object `o`, box column `ix`: about to decode attr0.RM -/
  | objRender (o : ObjDesc) (ix : Nat)
  /-- object pixel (`px`, `py`) on screen column `c`: about to decode DISPCNT.OBJMAP -/
  | objMap (o : ObjDesc) (ix : Nat) (c : Fin 240) (px py : Nat)
  /-- the same pixel, in tile number `tn`: about to decode attr0.CM -/
  | objDepth (o : ObjDesc) (ix : Nat) (c : Fin 240) (tn px py : Nat)
  deriving DecidableEq, Repr

/-- The phases of a scanline (R41). `j` counts the line's draw steps; COMPOSE stands at the column it is about to
compose, before decoding BLDCNT.MODE. -/
inductive Phase where
  | select (p : ScanPos)
  | draw (j : Nat) (p : DrawPos)
  | compose (c : Fin 240)
  deriving DecidableEq, Repr

/-- The sequencer (R41). -/
inductive Seq where
  | idle
  | line (l : Fin 160) (ph : Phase)
  | done
  | fault
  deriving DecidableEq, Repr

/-- The fatal reasons (R261), with the codes of that rule's table. -/
inductive FatalReason where
  /-- 1: a background index outside 0–3 (R263); no request reaches it -/
  | badBgIndex
  /-- 2: a screen-size value outside the four decoded ones (R264); no request reaches it -/
  | badScreenSize
  /-- 3: DISPCNT.BGMODE 3–7 (R262) -/
  | badMode
  /-- 4: a checked object with attr0.GFX = 3 (R265) -/
  | badObjMode
  /-- 5: a checked object with attr0.SHAPE = 3 (R265) -/
  | badObjShape
  deriving DecidableEq, Repr

/-- The code of a fatal reason (R261). -/
def FatalReason.code : FatalReason → Nat
  | .badBgIndex => 1
  | .badScreenSize => 2
  | .badMode => 3
  | .badObjMode => 4
  | .badObjShape => 5

/-- One host write (R102): `W8` or `W16`. -/
inductive HostWrite where
  | w8 (r : Region) (off : Nat) (v : Byte)
  | w16 (r : Region) (off : Nat) (v : Half)
  deriving DecidableEq, Repr

/-- One move of the host (R13, R102). A `sink` move hands over the buffer, with its contents, that the requests after
it write: the operand of RENDER_FRAME(sink) (R224, R277), which the host may change outside a request (R284). A
`hook l` move is a write the host makes between lines `l` and `l + 1` of a frame, which R70 allows when `P_LINE_HOOK` is
true. -/
inductive HostMove where
  | write (w : HostWrite)
  | sink (k : Sink)
  | render
  | hook (l : Nat) (w : HostWrite)
  deriving DecidableEq, Repr

/-- The state of the block, the regions and sink it shares with the host, and the host's pending moves. -/
structure State where
  /-- the parameters of R7 -/
  cfg : Params
  /-- IO, VRAM, OAM and PAL (R20) -/
  mem : Memory
  /-- the Pixel row (R37) -/
  row : Row
  /-- the object list of the line (R38) -/
  objs : List ObjDesc
  /-- how many objects of the list have been drawn (R38) -/
  k : Nat
  /-- the layers of the line not yet drawn, in draw order (`order` of R221, R223) -/
  layers : List Layer
  /-- the latched affine reference points (R39) -/
  x2 : BitVec 28
  y2 : BitVec 28
  x3 : BitVec 28
  y3 : BitVec 28
  /-- the fault record (R40) -/
  fault : Option FatalReason
  /-- the sequencer (R41) -/
  seq : Seq
  /-- the frame sink (R42): the host's buffer, with what it holds -/
  sink : Sink
  /-- the host's moves to come, in order: the host program of R102 -/
  host : List HostMove
  /-- the model's own counter of out-of-range VRAM reads, the argument of `Config.oobByte` (R66) -/
  oobReads : Nat
  deriving DecidableEq, Repr

/-- What stops the machine. -/
inductive Fault where
  /-- Raised by RENDER, and by a step with no host move to make, while `seq` is FAULT or a fault is recorded: the
  terminal state of R268, where "no step runs". Safe: the machine stays where it is. -/
  | stuckInFault
  /-- Raised by a host write, or by a fetch, at an offset the region does not have (R20, R61). Safe: it stops. No
  fetch of a state that meets `Inv` raises it. -/
  | noSuchAddress (r : Region) (off : Nat)
  deriving DecidableEq, Repr

/-- What has no meaning. -/
inductive Refusal where
  /-- Raised by an arm of exec whose instruction has no meaning yet. Safe. -/
  | notModelled (mnemonic : String)
  /-- Raised by a selector's meaning when the sequencer does not stand where that selector is decoded: no rule gives
  the field a meaning there (R99). Safe. A step never raises it. -/
  | outOfPlace
  /-- Raised by RENDER during a request: "cannot happen, because the host is blocked in the call" (R224). Safe. -/
  | requestInProgress
  /-- Raised by a 16-bit host write at an odd offset: the notation cannot express one (R63, R102; U13). Safe. -/
  | misalignedWrite
  /-- Raised by a `hook` move where no line boundary of its number takes it: not a legal host move (R69, R70; U11).
  Safe. -/
  | hookOutOfPlace
  /-- Raised by a step whose fetched bytes do not decode. Safe. A fetch always reads a whole word, so no step
  raises it. -/
  | undecodable
  deriving DecidableEq, Repr

/-- Block reset (R44, R280): idle, no fault, empty object list. What R44 leaves unspecified, the row, `X0`, `Y0`,
the regions' contents and the sink's, has the values of notes/assumptions/5.md and 6.md (DESIGN CHOICE); a launch may
bring any regions and sink (`State.launch`). -/
def State.reset : State where
  cfg := Params.default
  mem := { io := [], vram := [], oam := [], pal := [] }
  row := Row.empty
  objs := []
  k := 0
  layers := []
  x2 := 0
  y2 := 0
  x3 := 0
  y3 := 0
  fault := none
  seq := .idle
  sink := Sink.blank
  host := []
  oobReads := 0

end Sys2Proof.Machine
end

