-- ==== Sys2Proof/Machine/Ops.lean ====
section
/-! DEFINITION. The named operations every rule uses: reads and writes of the regions (spec/20_memory.md
R60–R66), the IO registers by name (spec/10_state.md R22), the frame sink (R42), the sequencer's moves, and the
one exception of the block, raising a fatal reason (spec/60_exceptions.md R260). -/

namespace Sys2Proof.Machine

open Sys2Proof.Config

/-- The outcome of a step or a meaning. -/
abbrev Result := Host.Outcome State Fault Refusal

/-! ### Regions -/

/-- What an offset nothing is listed at reads as: the one choice of contents for bytes the host never wrote, which
R44 leaves free (DESIGN CHOICE, notes/assumptions/6.md). -/
def unlisted : Byte := 0

/-- The byte listed at an offset. -/
def cellsRead : List Host.Cell → Nat → Byte
  | [], _ => unlisted
  | (b, v) :: rest, a => if a = b then v else cellsRead rest a

/-- Writes one byte, keeping the canonical form. -/
def cellsWrite : List Host.Cell → Nat → Byte → List Host.Cell
  | [], a, v => if v = unlisted then [] else [(a, v)]
  | (b, w) :: rest, a, v =>
    if a < b then (if v = unlisted then (b, w) :: rest else (a, v) :: (b, w) :: rest)
    else if a = b then (if v = unlisted then rest else (a, v) :: rest)
    else (b, w) :: cellsWrite rest a v

/-- The canonical form from offset `lo` on: offsets strictly rising, below `size`, and no byte that an unlisted
offset reads as. -/
def cellsWf (size : Nat) : Nat → List Host.Cell → Bool
  | _, [] => true
  | lo, (a, v) :: rest => decide (lo ≤ a) && decide (a < size) && (v != unlisted) && cellsWf size (a + 1) rest

/-- The cells of a region. -/
def Memory.cells (m : Memory) : Region → List Host.Cell
  | .io => m.io
  | .vram => m.vram
  | .oam => m.oam
  | .pal => m.pal

/-- Every region is in canonical form. -/
def Memory.wf (m : Memory) : Bool :=
  cellsWf (Region.size .io) 0 m.io && cellsWf (Region.size .vram) 0 m.vram
    && cellsWf (Region.size .oam) 0 m.oam && cellsWf (Region.size .pal) 0 m.pal

/-- `Read8` (R9). -/
def Memory.read8 (m : Memory) (r : Region) (off : Nat) : Byte := cellsRead (m.cells r) off

/-- `Read16` (R9, R62). -/
def Memory.read16 (m : Memory) (r : Region) (off : Nat) : Half := half (m.read8 r off) (m.read8 r (off + 1))

/-- A byte stored by the host (R102 `W8`). -/
def Memory.write8 (m : Memory) (r : Region) (off : Nat) (v : Byte) : Memory :=
  match r with
  | .io => { m with io := cellsWrite m.io off v }
  | .vram => { m with vram := cellsWrite m.vram off v }
  | .oam => { m with oam := cellsWrite m.oam off v }
  | .pal => { m with pal := cellsWrite m.pal off v }

/-- A 16-bit word stored by the host (R102 `W16`), little-endian (R62). -/
def Memory.write16 (m : Memory) (r : Region) (off : Nat) (v : Half) : Memory :=
  (m.write8 r off (v.extractLsb' 0 8)).write8 r (off + 1) (v.extractLsb' 8 8)

/-- `n` bytes from an offset, lowest first. -/
def Memory.bytes (m : Memory) (r : Region) (off : Nat) : Nat → List Byte
  | 0 => []
  | n + 1 => m.read8 r off :: m.bytes r (off + 1) n

/-- Bytes stored from an offset on, lowest first. -/
def Memory.writeBytes (m : Memory) (r : Region) (off : Nat) : List Byte → Memory
  | [] => m
  | b :: rest => (m.write8 r off b).writeBytes r (off + 1) rest

/-! ### Updates of one field -/

/-- Replaces the regions. -/
def State.withMem (s : State) (m : Memory) : State := { s with mem := m }

/-- Replaces the host's program. -/
def State.withHost (s : State) (h : List HostMove) : State := { s with host := h }

/-- Replaces the frame sink: the host hands its buffer over (R42, R224). -/
def State.withSink (s : State) (k : Sink) : State := { s with sink := k }

/-- Replaces the object list (R38). -/
def State.withObjs (s : State) (os : List ObjDesc) : State := { s with objs := os }

/-- Moves the object cursor (R38). -/
def State.withCursor (s : State) (k : Nat) : State := { s with k := k }

/-- Replaces the layers not yet drawn. -/
def State.withLayers (s : State) (ls : List Layer) : State := { s with layers := ls }

/-- Counts one more out-of-range VRAM read (R66). -/
def State.countOob (s : State) : State := { s with oobReads := s.oobReads + 1 }

/-- Moves the sequencer. -/
def State.goto (s : State) (q : Seq) : State := { s with seq := q }

/-! ### The IO registers (R22) -/

/-- DISPCNT (0x000). -/
def State.dispCnt (s : State) : DispCnt := DispCnt.ofWord (s.mem.read16 .io 0x000)

/-- BGnCNT (0x008 + 2n). -/
def State.bgCnt (s : State) (n : Fin 4) : BgCnt := BgCnt.ofWord (s.mem.read16 .io (0x008 + 2 * n.val))

/-- BGnHOFS (0x010 + 4n). -/
def State.bgHofs (s : State) (n : Fin 4) : Half := s.mem.read16 .io (0x010 + 4 * n.val)

/-- BGnVOFS (0x012 + 4n). -/
def State.bgVofs (s : State) (n : Fin 4) : Half := s.mem.read16 .io (0x012 + 4 * n.val)

/-- The offset of the first register of an affine layer, BGnPA (R26). -/
def AffLayer.base : AffLayer → Nat
  | .bg2 => 0x020
  | .bg3 => 0x030

/-- The layer's background index. -/
def AffLayer.bg : AffLayer → Fin 4
  | .bg2 => 2
  | .bg3 => 3

/-- BLDCNT (0x050). -/
def State.bldCnt (s : State) : BldCnt := BldCnt.ofWord (s.mem.read16 .io 0x050)

/-- BLDALPHA (0x052). -/
def State.bldAlpha (s : State) : Half := s.mem.read16 .io 0x052

/-- BLDY (0x054). -/
def State.bldY (s : State) : Half := s.mem.read16 .io 0x054

/-! ### VRAM as the backgrounds read it -/

/-- A byte of VRAM at any offset a formula makes: in range, the byte; at 0x18000 or above, the next draw of
`P_OOB_READ` (R66). -/
def State.vramByte (s : State) (off : Nat) : Byte × State :=
  if off < Region.size .vram then (s.mem.read8 .vram off, s)
  else (oobByte s.oobReads, s.countOob)

/-! ### The frame sink -/

/-- `FrameWrite` (R9, R42). -/
def State.frameWrite (s : State) (l : Fin 160) (c : Fin 240) (col : Color15) : State :=
  { s with sink := s.sink.set l.val ((s.sink[l.val]'l.isLt).set c.val col c.isLt) l.isLt }

/-- Cell `(l, c)` of the sink. -/
def State.cell (s : State) (l : Fin 160) (c : Fin 240) : Color15 :=
  (s.sink[l.val]'l.isLt)[c.val]'c.isLt

/-- The index of cell `(l, c)` in the host's row-major buffer (R42). -/
def cellIndex (l : Fin 160) (c : Fin 240) : Nat := l.val * 240 + c.val

/-! ### The sequencer -/

/-- The next column, if there is one. -/
def nextCol (c : Fin 240) : Option (Fin 240) :=
  if h : c.val + 1 < 240 then some ⟨c.val + 1, h⟩ else none

/-- The next line, if there is one: after line 159 the frame is done (R41). -/
def nextLine (l : Fin 160) : Option (Fin 160) :=
  if h : l.val + 1 < 160 then some ⟨l.val + 1, h⟩ else none

/-- The next OAM entry, if there is one. -/
def nextObj (i : Fin 128) : Option (Fin 128) :=
  if h : i.val + 1 < 128 then some ⟨i.val + 1, h⟩ else none

/-! ### The exception -/

/-- Raising `Fatal(r)` (R260, R268): the reason is recorded, the sequencer goes to FAULT, the rest of the step is
abandoned and everything else stays as it was left. There is no return from it (R269). -/
def State.raiseFatal (s : State) (r : FatalReason) : State := { s with fault := some r, seq := .fault }

end Sys2Proof.Machine
end

