-- ==== Sys2Proof/Machine/Operands.lean ====
section
/-! DEFINITION. Operand assembly (spec/30_encoding.md R98) and every address and coordinate the rules form:
the background resolver (R120), screen-entry addresses (R125), affine coordinates (R166–R172), object descriptors,
sizes, tiles and matrices (R185, R96, R193–R199), tile-data offsets (R140–R147) and palette lookups (R155–R160). -/

namespace Sys2Proof.Machine

open Sys2Proof.Config

/-! ### Fields -/

/-- A signed 8.8 coefficient (R84, R26). -/
def coef (w : Half) : Int := w.toInt

/-- A reference point from its H and L words; H's bits 15:12 are ignored (R85, R27). -/
def refPoint (h l : Half) : BitVec 28 := h.extractLsb' 0 12 ++ l

/-- A scroll: bits 8:0 (R83, R25). -/
def scroll (w : Half) : BitVec 9 := w.extractLsb' 0 9

/-- A blend coefficient, clamped to 16 = 1.0 (R98, R241). -/
def clampCoef (f : BitVec 5) : Nat := min f.toNat 16

/-- An object's vertical position: values above 160 wrap back by 256 (R98). -/
def objY (y : BitVec 8) : Int := if y.toNat > 160 then (y.toNat : Int) - 256 else y.toNat

/-- An object's horizontal position (R98). -/
def objX (x : BitVec 9) : Int := x.toInt

/-- Bit `n` of a four-bit layer mask. -/
def layerBit (m : BitVec 4) (n : Fin 4) : Bool := m.getLsbD n.val

/-! ### The background resolver (R120) -/

/-- The affine part of BGData. -/
structure AffData where
  pa : Int
  pb : Int
  pc : Int
  pd : Int
  x0 : Int
  y0 : Int
  deriving DecidableEq, Repr

/-- BGData, the resolved view of one layer (R120). -/
structure BgData where
  prio : BitVec 2
  cbb : BitVec 2
  cd : Bool
  sbb : BitVec 5
  ovf : Bool
  size : BitVec 2
  hofs : BitVec 9
  vofs : BitVec 9
  top : Bool
  bot : Bool
  en : Bool
  aff : Option AffData
  deriving DecidableEq, Repr

/-- The affine registers and latched reference point of layer 2 or 3 (R120, R39). -/
def State.affData (s : State) (n : AffLayer) : AffData where
  pa := coef (s.mem.read16 .io n.base)
  pb := coef (s.mem.read16 .io (n.base + 2))
  pc := coef (s.mem.read16 .io (n.base + 4))
  pd := coef (s.mem.read16 .io (n.base + 6))
  x0 := match n with | .bg2 => s.x2.toInt | .bg3 => s.x3.toInt
  y0 := match n with | .bg2 => s.y2.toInt | .bg3 => s.y3.toInt

/-- BGData of a background index 0–3 (R120). -/
def State.bgData (s : State) (n : Fin 4) : BgData :=
  let cnt := s.bgCnt n
  { prio := cnt.prio
    cbb := cnt.cbb
    cd := cnt.depth
    sbb := cnt.sbb
    ovf := cnt.overflow
    size := cnt.size
    hofs := scroll (s.bgHofs n)
    vofs := scroll (s.bgVofs n)
    top := layerBit s.bldCnt.topBg n
    bot := layerBit s.bldCnt.bottomBg n
    en := layerBit s.dispCnt.bgEn n
    aff := match n with
      | 0 | 1 => none
      | 2 => some (s.affData .bg2)
      | 3 => some (s.affData .bg3) }

/-- RESOLVE_BG (R120): an index outside 0–3 is fatal (R121). The drawing rules hold their layer as a `Fin 4`, so
they read `bgData` directly and cannot raise it (R263). -/
def State.resolveBg (s : State) (n : Nat) : Except FatalReason BgData :=
  if h : n < 4 then .ok (s.bgData ⟨n, h⟩) else .error .badBgIndex

/-- A layer's priority (R221, R223). -/
def State.layerPrio (s : State) (l : Layer) : BitVec 2 :=
  match l with
  | .text n => (s.bgCnt n).prio
  | .affine n => (s.bgCnt n.bg).prio

/-- A layer's background index. -/
def Layer.bg : Layer → Fin 4
  | .text n => n
  | .affine n => n.bg

/-- A layer's enable bit in DISPCNT (R227). -/
def State.layerEnabled (s : State) (l : Layer) : Bool := layerBit s.dispCnt.bgEn l.bg

/-! ### Regular map geometry (R123–R125) -/

/-- Map width in tiles (R123). -/
def textWt (size : BitVec 2) : Nat := if size = 1 ∨ size = 3 then 64 else 32

/-- Map height in tiles (R123). -/
def textHt (size : BitVec 2) : Nat := if size = 2 ∨ size = 3 then 64 else 32

/-- The quadrant of a map tile (R125). -/
def textQuadrant (size : BitVec 2) (tx ty : Nat) : Nat :=
  match size.toNat with
  | 0 => 0
  | 1 => tx / 32
  | 2 => ty / 32
  | _ => tx / 32 + 2 * (ty / 32)

/-- SEADDR (R125). -/
def seAddr (sbb : BitVec 5) (size : BitVec 2) (tx ty : Nat) : Nat :=
  sbb.toNat * 0x800 + textQuadrant size tx ty * 0x800 + ((ty % 32) * 32 + tx % 32) * 2

/-! ### Affine coordinates (R166–R172) -/

/-- The texel of screen column `c` on line `l` (R167, R168): `>> 8` floors. -/
def affCoord (d : AffData) (l : Fin 160) (c : Fin 240) : Int × Int :=
  ((d.x0 + (l.val : Int) * d.pb + d.pa * (c.val : Int)) >>> 8,
   (d.y0 + (l.val : Int) * d.pd + d.pc * (c.val : Int)) >>> 8)

/-- Masking with `S − 1` on the two's-complement value, for a power of two `S` (R170): the non-negative remainder. -/
def wrapTo (size : Nat) (t : Int) : Int := t % (size : Int)

/-- Inside the map (R171) or the object (R199): `0 ≤ t < size`. -/
def insideBy (size : Nat) (t : Int) : Bool := decide (0 ≤ t) && decide (t < (size : Int))

/-- The VRAM offset of the affine map byte (R172). -/
def affEntryAddr (sbb : BitVec 5) (size tx ty : Nat) : Nat :=
  sbb.toNat * 0x800 + (ty / 8) * (size / 8) + tx / 8

/-! ### Tile data (R140–R147) -/

/-- The base of a character base block (R140). -/
def charBase (cbb : BitVec 2) : Nat := cbb.toNat * 0x4000

/-- Whose tile data is read: a background's or an object's (R147). -/
inductive Space where
  | bg
  | obj
  deriving DecidableEq, Repr

/-- The address function `A(space, off)` (R147): a background offset is used as it is; an object's is forced into the
object bank and wraps inside it (R194). -/
def Space.addr : Space → Nat → Nat
  | .bg, off => off
  | .obj, off => 0x10000 + off % 0x8000

/-- The nibble of a 4bpp byte a pixel column is in: low nibble first (R90, R141). -/
def nibbleOf (b : Byte) (px : Nat) : Byte :=
  if px % 2 = 0 then (b.extractLsb' 0 4).setWidth 8 else (b.extractLsb' 4 4).setWidth 8

/-- TEXEL_4BPP (R141), the index zero-extended. -/
def State.texel4 (s : State) (sp : Space) (rowoff px : Nat) : Byte × State :=
  let r := s.vramByte (sp.addr (rowoff + px / 2))
  (nibbleOf r.1 px, r.2)

/-- TEXEL_8BPP (R142). -/
def State.texel8 (s : State) (sp : Space) (rowoff px : Nat) : Byte × State :=
  s.vramByte (sp.addr (rowoff + px))

/-- BG_TEXEL with `cd = 0` (R140). -/
def State.bgTexel4 (s : State) (cbb : BitVec 2) (tile : BitVec 10) (px py : Fin 8) : Byte × State :=
  s.texel4 .bg (charBase cbb + tile.toNat * 32 + py.val * 4) px.val

/-- BG_TEXEL with `cd = 1` (R140). -/
def State.bgTexel8 (s : State) (cbb : BitVec 2) (tile : BitVec 10) (px py : Fin 8) : Byte × State :=
  s.texel8 .bg (charBase cbb + tile.toNat * 64 + py.val * 8) px.val

/-- The affine texel (R173). -/
def State.affTexel (s : State) (base : Nat) (tile : BitVec 8) (fx fy : Fin 8) : Byte × State :=
  s.texel8 .bg (base + tile.toNat * 64 + fy.val * 8) fx.val

/-- OBJ_TEXEL with `cm = 0`, of pixel (`px`, `py`) in tile number `tn` (R195). -/
def State.objTexel4 (s : State) (tn px py : Nat) : Byte × State :=
  s.texel4 .obj (tn * 32 + (py % 8) * 4) (px % 8)

/-- OBJ_TEXEL with `cm = 1`, of pixel (`px`, `py`) in tile number `tn` (R195). -/
def State.objTexel8 (s : State) (tn px py : Nat) : Byte × State :=
  s.texel8 .obj (tn * 32 + (py % 8) * 8) (px % 8)

/-! ### Palettes (R155–R160) -/

/-- The two color tables (R155). -/
inductive Palette where
  | bg
  | obj
  deriving DecidableEq, Repr

/-- Where a table starts in PAL (R155). -/
def Palette.base : Palette → Nat
  | .bg => 0
  | .obj => 0x200

/-- A palette word's color: bit 15 is dropped (R160). -/
def colorOf (w : Half) : Color15 := w.extractLsb' 0 15

/-- PALETTE in 4bpp: entry `pb · 16 + idx` (R157). -/
def State.palette4 (s : State) (t : Palette) (pb : BitVec 4) (idx : Byte) : Color15 :=
  colorOf (s.mem.read16 .pal (t.base + 2 * (pb.toNat * 16 + idx.toNat)))

/-- PALETTE in 8bpp: entry `idx`, the bank ignored (R157). -/
def State.palette8 (s : State) (t : Palette) (idx : Byte) : Color15 :=
  colorOf (s.mem.read16 .pal (t.base + 2 * idx.toNat))

/-- BACKDROP (R159). -/
def State.backdrop (s : State) : Color15 := colorOf (s.mem.read16 .pal 0)

/-! ### Objects (R185, R96, R193–R199) -/

/-- The key of OAM entry `i` (R96). -/
def State.objKey (s : State) (i : Fin 128) : ObjKey where
  a0 := Attr0.ofWord (s.mem.read16 .oam (8 * i.val))
  a1 := Attr1.ofWord (s.mem.read16 .oam (8 * i.val + 2))

/-- attr2 of OAM entry `i` (R34, R94). -/
def State.objAttr2 (s : State) (i : Fin 128) : Attr2 := Attr2.ofWord (s.mem.read16 .oam (8 * i.val + 4))

/-- OBJ_DECODE, given the size (R185). -/
def objDecode (i : Fin 128) (key : ObjKey) (a2 : Attr2) (w h : Nat) : ObjDesc where
  idx := i
  y := objY key.a0.y
  rm := key.a0.rm
  gfx := key.a0.gfx
  cm := key.a0.depth
  shape := key.a0.shape
  x := objX key.a1.x
  size := key.a1.size
  hf := key.a1.hflip
  vf := key.a1.vflip
  mat := key.a1.matrix
  tile := a2.tile
  prio := a2.prio
  pb := a2.bank
  w := w
  h := h

/-- The width of an object's box: doubled for OBJ_AFFINE_DOUBLE (R198). -/
def ObjDesc.bw (o : ObjDesc) : Nat := if o.rm = 3 then 2 * o.w else o.w

/-- The height of an object's box (R189, R198). -/
def ObjDesc.bh (o : ObjDesc) : Nat := if o.rm = 3 then 2 * o.h else o.h

/-- The object is on line `l` (R189). -/
def ObjDesc.onLine (o : ObjDesc) (l : Fin 160) : Bool :=
  decide (o.y ≤ (l.val : Int)) && decide ((l.val : Int) < o.y + (o.bh : Int))

/-- A column on screen, 0–239 (R146). -/
def screenCol (x : Int) : Option (Fin 240) :=
  if h : 0 ≤ x ∧ x < 240 then some ⟨x.toNat, by omega⟩ else none

/-- The screen column of box column `ix`, if it is on screen (R196, R200). -/
def ObjDesc.col (o : ObjDesc) (ix : Nat) : Option (Fin 240) := screenCol (o.x + (ix : Int))

/-- The factor `k` of R193: an 8bpp tile is two 32-byte units. -/
def ObjDesc.unit (o : ObjDesc) : Nat := if o.cm then 2 else 1

/-- OBJ_TILE under OBJMAP_1D (R193). -/
def objTile1D (o : ObjDesc) (tcol trow : Nat) : Nat :=
  o.tile.toNat + trow * (o.w / 8) * o.unit + tcol * o.unit

/-- OBJ_TILE under OBJMAP_2D (R193). -/
def objTile2D (o : ObjDesc) (tcol trow : Nat) : Nat := o.tile.toNat + trow * 32 + tcol * o.unit

/-- The source pixel of box column `ix` of a regular object on line `l`: flips over the whole object (R144, R196). -/
def regularSource (o : ObjDesc) (l : Fin 160) (ix : Nat) : Nat × Nat :=
  let r := ((l.val : Int) - o.y).toNat
  (if o.hf then o.w - 1 - ix else ix, if o.vf then o.h - 1 - r else r)

/-- The matrix coefficients PA, PB, PC, PD of an object matrix (R197). -/
structure ObjMatrix where
  pa : Int
  pb : Int
  pc : Int
  pd : Int
  deriving DecidableEq, Repr

/-- OBJ_MATRIX (R197, R95). -/
def State.objMatrix (s : State) (m : BitVec 5) : ObjMatrix where
  pa := coef (s.mem.read16 .oam (8 * (4 * m.toNat + 0) + 6))
  pb := coef (s.mem.read16 .oam (8 * (4 * m.toNat + 1) + 6))
  pc := coef (s.mem.read16 .oam (8 * (4 * m.toNat + 2) + 6))
  pd := coef (s.mem.read16 .oam (8 * (4 * m.toNat + 3) + 6))

/-- The inverse-affine texel of box column `ix` on line `l`, in a box of `bw` × `bh` (R199). -/
def affineSource (o : ObjDesc) (m : ObjMatrix) (bw bh : Nat) (l : Fin 160) (ix : Nat) : Int × Int :=
  let dx : Int := (ix : Int) - (bw / 2 : Nat)
  let dy : Int := (l.val : Int) - o.y - (bh / 2 : Nat)
  (((m.pa * dx + m.pb * dy) >>> 8) + (o.w / 2 : Nat), ((m.pc * dx + m.pd * dy) >>> 8) + (o.h / 2 : Nat))

/-- The key objects are drawn in: ascending (priority, OAM index) (R190). -/
def objBefore (a b : ObjDesc) : Bool :=
  decide (a.prio.toNat < b.prio.toNat) || (decide (a.prio = b.prio) && decide (a.idx.val ≤ b.idx.val))

/-- The key layers are drawn in: ascending (priority, index) (R221). -/
def State.layerBefore (s : State) (a b : Layer) : Bool :=
  decide ((s.layerPrio a).toNat < (s.layerPrio b).toNat)
    || (decide (s.layerPrio a = s.layerPrio b) && decide (a.bg.val ≤ b.bg.val))

/-- Puts an element in its place in a sorted list. -/
def insertBy {α : Type} (before : α → α → Bool) (x : α) : List α → List α
  | [] => [x]
  | y :: rest => if before x y then x :: y :: rest else y :: insertBy before x rest

/-- Sorts by a key order (R190, R221: the keys never tie, so no stability is relied on). -/
def sortBy {α : Type} (before : α → α → Bool) : List α → List α
  | [] => []
  | x :: rest => insertBy before x (sortBy before rest)

end Sys2Proof.Machine
end

