-- ==== Sys2Proof/Machine/Flags.lean ====
section
/-! DEFINITION. The block's flag-like state (spec/10_state.md R43): the Pixel's occupancy and top flag, written by
SETCOLOR (R216) and read by FILLED (R217); the objects' blend flags (R201); and the one way a decoded palette index
reaches the row, which skips index 0 (R143). -/

namespace Sys2Proof.Machine

/-- SETCOLOR (R216). -/
def setColor (p : Pixel) (col : Color15) (top bot : Bool) : Pixel :=
  if p.n = 0 then { p with c0 := col, t0 := top, n := 1 }
  else if p.n = 1 ∧ p.t0 = true then
    if bot then { p with n := 2, c1 := some col } else { p with n := 2 }
  else p

/-- FILLED (R217). -/
def filled (p : Pixel) : Bool := decide (p.n = 2) || (decide (p.n = 1) && !p.t0)

/-- The Pixel of a column. -/
def State.pixel (s : State) (c : Fin 240) : Pixel := s.row[c.val]'c.isLt

/-- Offers a color to the Pixel of a column. -/
def State.plot (s : State) (c : Fin 240) (col : Color15) (top bot : Bool) : State :=
  { s with row := s.row.set c.val (setColor (s.pixel c) col top bot) c.isLt }

/-- A decoded index reaches the row: 0 is transparent and writes nothing (R143). -/
def State.plotIndex (s : State) (c : Fin 240) (idx : Byte) (col : Color15) (top bot : Bool) : State :=
  if idx = 0 then s else s.plot c col top bot

/-- A background's flags: `top` and `bot` of BGData (R122). -/
def State.plotBg (s : State) (n : Fin 4) (c : Fin 240) (idx : Byte) (col : Color15) : State :=
  s.plotIndex c idx col (s.bgData n).top (s.bgData n).bot

/-- An object's flags: T_OBJ and B_OBJ (R201). -/
def State.plotObj (s : State) (c : Fin 240) (idx : Byte) (col : Color15) : State :=
  s.plotIndex c idx col s.bldCnt.topObj s.bldCnt.bottomObj

end Sys2Proof.Machine
end

