-- ==== Sys2Proof/Machine/Sequencer.lean ====
section
/-! DEFINITION. How the sequencer goes from one draw step to the next (spec/45_layer_priority_mux.md R221–R224):
which object or layer is drawn next, the ends of a column, an object pixel, a draw step, an object scan and a
line. -/

namespace Sys2Proof.Machine

/-- What a draw step draws. -/
inductive DrawWhat where
  | obj (o : ObjDesc)
  | layer (l : Layer)
  deriving DecidableEq, Repr

/-- The next draw step (R221's loops): an undrawn object whose priority is not above the next layer's; else that
layer if it is enabled (R227); with no layer left, the remaining objects; then nothing. The layers passed over are
dropped. -/
def pickDraw (s : State) : List Layer → List Layer × Option DrawWhat
  | [] => ([], (s.objs[s.k]?).map .obj)
  | l :: rest =>
    match s.objs[s.k]? with
    | some o =>
      if o.prio.toNat ≤ (s.layerPrio l).toNat then (l :: rest, some (.obj o))
      else if s.layerEnabled l then (l :: rest, some (.layer l)) else pickDraw s rest
    | none => if s.layerEnabled l then (l :: rest, some (.layer l)) else pickDraw s rest

/-- The phase a draw step starts in; after the last one the line is composed (R222). -/
def startPhase (j : Nat) : Option DrawWhat → Phase
  | some (.obj o) => .draw j (.objRender o 0)
  | some (.layer (.text n)) => .draw j (.textSize n 0)
  | some (.layer (.affine n)) => .draw j (.affSize n 0)
  | none => .compose 0

/-- Starts draw step `j` of line `l`. -/
def State.startDraw (s : State) (l : Fin 160) (j : Nat) : State :=
  let r := pickDraw s s.layers
  (s.withLayers r.1).goto (.line l (startPhase j r.2))

/-- The end of a layer's draw step. -/
def State.endLayer (s : State) (l : Fin 160) (j : Nat) : State :=
  (s.withLayers s.layers.tail).startDraw l (j + 1)

/-- The end of an object's draw step: `k := k + 1` (R221). -/
def State.endObj (s : State) (l : Fin 160) (j : Nat) : State := (s.withCursor (s.k + 1)).startDraw l (j + 1)

/-- The end of a column of a regular layer. -/
def State.endTextCol (s : State) (l : Fin 160) (j : Nat) (n : Fin 4) (c : Fin 240) : State :=
  match nextCol c with
  | some c' => s.goto (.line l (.draw j (.textSize n c')))
  | none => s.endLayer l j

/-- The end of a column of an affine layer. -/
def State.endAffCol (s : State) (l : Fin 160) (j : Nat) (n : AffLayer) (c : Fin 240) : State :=
  match nextCol c with
  | some c' => s.goto (.line l (.draw j (.affSize n c')))
  | none => s.endLayer l j

/-- The end of a box column of an object. -/
def State.endObjCol (s : State) (l : Fin 160) (j : Nat) (o : ObjDesc) (ix : Nat) : State :=
  if ix + 1 < o.bw then s.goto (.line l (.draw j (.objRender o (ix + 1)))) else s.endObj l j

/-- The end of SELECT_OBJECTS: the list is sorted and the cursor is 0 (R190). -/
def State.endSelect (s : State) (l : Fin 160) : State :=
  ((s.withObjs (sortBy objBefore s.objs)).withCursor 0).startDraw l 0

/-- The end of an OAM entry's selection (R190). -/
def State.endEntry (s : State) (l : Fin 160) (i : Fin 128) : State :=
  match nextObj i with
  | some i' => s.goto (.line l (.select (.render i')))
  | none => s.endSelect l

/-- The end of a composed column: the next one, the next line, or the end of the frame (R222, R224). R248 discards the
row then; the model keeps its Pixels, unread, until the next line empties it (DESIGN CHOICE, notes/assumptions/18.md). -/
def State.endCompose (s : State) (l : Fin 160) (c : Fin 240) : State :=
  match nextCol c with
  | some c' => s.goto (.line l (.compose c'))
  | none =>
    match nextLine l with
    | some l' => s.goto (.line l' (.select .mode))
    | none => s.goto .done

/-- The start of a line, before anything is drawn (R222, R282): the row is emptied. The object list is emptied too;
in modes 0 and 1 it is rebuilt (R190), in mode 2 nothing reads it (DEDUCED, notes/assumptions/10.md). -/
def State.startLine (s : State) : State := { s with row := Row.empty, objs := [], k := 0, layers := [] }

end Sys2Proof.Machine
end

