-- ==== Sys2Proof/Machine/AffineBg.lean ====
section
/-! DEFINITION. The affine background renderer, DRAW_AFFINE_BG (spec/43_affine_transform_engine.md R174), one
selector a step: the map size with the texel coordinate, the overflow rule, then the map byte with its texel, which
ends the column. -/

namespace Sys2Proof.Machine

/-- The texel coordinate of a column, for a map of `size` pixels a side (R167, R168, R169). -/
def affLocate (size : Nat) (s : State) : Result :=
  match s.seq with
  | .line l (.draw j (.affSize n c)) =>
    let t := affCoord (s.affData n) l c
    .next (s.goto (.line l (.draw j (.affOverflow n c size t.1 t.2))))
  | _ => .refused .outOfPlace

/-- AFF_128 (R169). -/
def execAff128 (_ : BgCnt) (s : State) : Result := affLocate 128 s

/-- AFF_256 (R169). -/
def execAff256 (_ : BgCnt) (s : State) : Result := affLocate 256 s

/-- AFF_512 (R169). -/
def execAff512 (_ : BgCnt) (s : State) : Result := affLocate 512 s

/-- AFF_1024 (R169). -/
def execAff1024 (_ : BgCnt) (s : State) : Result := affLocate 1024 s

/-- The map byte's address and the pixel within its tile, for a texel inside the map (R172, R173). -/
def affEntryPos (b : BgCnt) (n : AffLayer) (c : Fin 240) (size tx ty : Nat) : DrawPos :=
  .affEntry n c (affEntryAddr b.sbb size tx ty) (charBase b.cbb) (Fin.ofNat 8 tx) (Fin.ofNat 8 ty)

/-- AFF_CLIP (R171): a texel outside the map skips the column, with no read and no SETCOLOR. -/
def execAffClip (b : BgCnt) (s : State) : Result :=
  match s.seq with
  | .line l (.draw j (.affOverflow n c size tx ty)) =>
    if insideBy size tx && insideBy size ty then
      .next (s.goto (.line l (.draw j (affEntryPos b n c size tx.toNat ty.toNat))))
    else .next (s.endAffCol l j n c)
  | _ => .refused .outOfPlace

/-- AFF_WRAP (R170): both coordinates are masked into the map. -/
def execAffWrap (b : BgCnt) (s : State) : Result :=
  match s.seq with
  | .line l (.draw j (.affOverflow n c size tx ty)) =>
    .next (s.goto (.line l (.draw j
      (affEntryPos b n c size (wrapTo size tx).toNat (wrapTo size ty).toNat))))
  | _ => .refused .outOfPlace

/-- SE_AFF (R172, R173): the map byte's tile, always 8bpp, no flip. -/
def execSeAff (tile : BitVec 8) (s : State) : Result :=
  match s.seq with
  | .line l (.draw j (.affEntry n c _ base fx fy)) =>
    let r := s.affTexel base tile fx fy
    .next ((r.2.plotBg n.bg c r.1 (s.palette8 .bg r.1)).endAffCol l j n c)
  | _ => .refused .outOfPlace

end Sys2Proof.Machine
end

