-- ==== Sys2Proof/Machine/Blend.lean ====
section
/-! DEFINITION. The fixed-point alpha blender (spec/46_fixed_point_alpha_blender.md): BLEND (R242), GETCOLOR under
each mode (R243–R246), and COMPOSE_LINE (R248), one column a step. -/

namespace Sys2Proof.Machine

/-! ### Arithmetic -/

/-- One 5-bit channel of BLEND: an exact sum, floored by `>> 4`, saturated to 31 (R242). -/
def blendChannel (a b : BitVec 5) (ca cb : Nat) : BitVec 5 :=
  BitVec.ofNat 5 (min ((a.toNat * ca + b.toNat * cb) / 16) 31)

/-- Red, bits 4:0 (R156). -/
def red (c : Color15) : BitVec 5 := c.extractLsb' 0 5

/-- Green, bits 9:5 (R156). -/
def green (c : Color15) : BitVec 5 := c.extractLsb' 5 5

/-- Blue, bits 14:10 (R156). -/
def blue (c : Color15) : BitVec 5 := c.extractLsb' 10 5

/-- `pack` (R156). -/
def pack (r g b : BitVec 5) : Color15 := b ++ g ++ r

/-- BLEND (R242). -/
def blend (a b : Color15) (ca cb : Nat) : Color15 :=
  pack (blendChannel (red a) (red b) ca cb) (blendChannel (green a) (green b) ca cb)
    (blendChannel (blue a) (blue b) ca cb)

/-- `eva` (R241). -/
def State.eva (s : State) : Nat := clampCoef (s.bldAlpha.extractLsb' 0 5)

/-- `evb` (R241). -/
def State.evb (s : State) : Nat := clampCoef (s.bldAlpha.extractLsb' 8 5)

/-- `evy` (R241). -/
def State.evy (s : State) : Nat := clampCoef (s.bldY.extractLsb' 0 5)

/-! ### GETCOLOR -/

/-- The topmost written color, or the backdrop (R243). -/
def topColor (p : Pixel) (bd : Color15) : Color15 := if 1 ≤ p.n.val then p.c0 else bd

/-- GETCOLOR under BLEND_OFF (R243). -/
def getColorOff (p : Pixel) (bd : Color15) : Color15 := topColor p bd

/-- GETCOLOR under BLEND_ALPHA (R244). -/
def getColorAlpha (p : Pixel) (bd : Color15) (bdB : Bool) (eva evb : Nat) : Color15 :=
  match p.n.val, p.c1 with
  | 2, some c1 => blend p.c0 c1 eva evb
  | 1, _ => if p.t0 && bdB then blend p.c0 bd eva evb else p.c0
  | _, _ => topColor p bd

/-- GETCOLOR under BLEND_WHITE (`target` 0x7FFF, R245) and BLEND_BLACK (`target` 0, R246): the topmost color is faded
whatever its flag (90_conflicts.md C7), the backdrop only when it is top-eligible. -/
def getColorFade (target : Color15) (p : Pixel) (bd : Color15) (bdT : Bool) (evy : Nat) : Color15 :=
  if 1 ≤ p.n.val then blend p.c0 target (16 - evy) evy
  else if bdT then blend bd target (16 - evy) evy
  else bd

/-! ### COMPOSE_LINE, a column -/

/-- Writes the column's final color and goes on (R248). -/
def composeCol (color : Pixel → Color15) (s : State) : Result :=
  match s.seq with
  | .line l (.compose c) => .next ((s.frameWrite l c (color (s.pixel c))).endCompose l c)
  | _ => .refused .outOfPlace

/-- BLEND_OFF (R243). -/
def execBlendOff (_ : BldCnt) (s : State) : Result := composeCol (fun p => getColorOff p s.backdrop) s

/-- BLEND_ALPHA (R244). -/
def execBlendAlpha (b : BldCnt) (s : State) : Result :=
  composeCol (fun p => getColorAlpha p s.backdrop b.bottomBackdrop s.eva s.evb) s

/-- BLEND_WHITE (R245). -/
def execBlendWhite (b : BldCnt) (s : State) : Result :=
  composeCol (fun p => getColorFade 0x7FFF p s.backdrop b.topBackdrop s.evy) s

/-- BLEND_BLACK (R246). -/
def execBlendBlack (b : BldCnt) (s : State) : Result :=
  composeCol (fun p => getColorFade 0x0000 p s.backdrop b.topBackdrop s.evy) s

end Sys2Proof.Machine
end

