-- ==== Sys2Proof/Machine/ModeSelect.lean ====
section
/-! DEFINITION. MODE0–MODE7: the mode dispatch at the start of every line (spec/45_layer_priority_mux.md R219,
R220, R221, R223; spec/60_exceptions.md R262). -/

namespace Sys2Proof.Machine

open Sys2Proof.Config

/-- The start of DRAW_LINE_M01 (R221): the row is emptied, the mode's layers are put in draw order, and the object
scan begins, unless OBJEN is 0 (R191). -/
def startM01 (lay : List Layer) (d : DispCnt) (s : State) : Result :=
  match s.seq with
  | .line l (.select .mode) =>
    let s1 := s.startLine.withLayers (sortBy s.layerBefore lay)
    if d.objEn then .next (s1.goto (.line l (.select (.render 0)))) else .next (s1.startDraw l 0)
  | _ => .refused .outOfPlace

/-- The two layers of mode 2 in draw order (R223): the smaller priority first; on a tie, `P_MODE2_TIE`. -/
def mode2Layers (s : State) : List Layer :=
  let p2 := (s.layerPrio (.affine .bg2)).toNat
  let p3 := (s.layerPrio (.affine .bg3)).toNat
  if p2 < p3 then [.affine .bg2, .affine .bg3]
  else if p3 < p2 then [.affine .bg3, .affine .bg2]
  else
    match s.cfg.mode2Tie with
    | .bg2First => [.affine .bg2, .affine .bg3]
    | .bg3First => [.affine .bg3, .affine .bg2]

/-- An unimplemented mode (R262): the row is emptied, then BadMode is raised. -/
def badMode (s : State) : Result :=
  match s.seq with
  | .line _ (.select .mode) => .next (s.startLine.raiseFatal .badMode)
  | _ => .refused .outOfPlace

/-- MODE0 (R220, R221): four regular layers. -/
def execMode0 (d : DispCnt) (s : State) : Result := startM01 [.text 0, .text 1, .text 2, .text 3] d s

/-- MODE1 (R220, R221): BG0 and BG1 regular, BG2 affine; BG3 is not drawn. -/
def execMode1 (d : DispCnt) (s : State) : Result := startM01 [.text 0, .text 1, .affine .bg2] d s

/-- MODE2 (R223): BG2 and BG3 affine, no object selected or drawn, whatever OBJEN. -/
def execMode2 (_ : DispCnt) (s : State) : Result :=
  match s.seq with
  | .line l (.select .mode) => .next ((s.startLine.withLayers (mode2Layers s)).startDraw l 0)
  | _ => .refused .outOfPlace

/-- MODE3 (R262): fatal. -/
def execMode3 (_ : DispCnt) (s : State) : Result := badMode s

/-- MODE4 (R262): fatal. -/
def execMode4 (_ : DispCnt) (s : State) : Result := badMode s

/-- MODE5 (R262): fatal. -/
def execMode5 (_ : DispCnt) (s : State) : Result := badMode s

/-- MODE6 (R262): fatal. -/
def execMode6 (_ : DispCnt) (s : State) : Result := badMode s

/-- MODE7 (R262): fatal. -/
def execMode7 (_ : DispCnt) (s : State) : Result := badMode s

end Sys2Proof.Machine
end

