-- ==== Sys2Proof/Machine/Request.lean ====
section
/-! DEFINITION. RENDER, the host's request RENDER_FRAME (spec/45_layer_priority_mux.md R224): its precondition, the
latch (R166) and the start of line 0 (R281). The lines that follow are the steps of the sequencer. -/

namespace Sys2Proof.Machine

/-- LATCH_REF (R166), in every mode. -/
def State.latchRef (s : State) : State :=
  { s with
    x2 := refPoint (s.mem.read16 .io 0x02A) (s.mem.read16 .io 0x028)
    y2 := refPoint (s.mem.read16 .io 0x02E) (s.mem.read16 .io 0x02C)
    x3 := refPoint (s.mem.read16 .io 0x03A) (s.mem.read16 .io 0x038)
    y3 := refPoint (s.mem.read16 .io 0x03E) (s.mem.read16 .io 0x03C) }

/-- The start of a request (R281, R44): the latch, an empty object list, line 0. R44 leaves the row and the sink's cells
unspecified here: the row is the one the state holds, and the sink, the operand of RENDER_FRAME, is the last one the
host handed over with what it holds since (DESIGN CHOICE, notes/assumptions/18.md). The layers are notes/assumptions/15.md's. -/
def State.startFrame (s : State) : State :=
  { s.latchRef with objs := [], k := 0, seq := .line 0 (.select .mode) }

/-- RENDER (R224): from IDLE or DONE with no fault, a frame starts; in FAULT it has no step (R268); during a request
it cannot be issued. -/
def execRender (s : State) : Result :=
  match s.seq, s.fault with
  | .idle, none => .next s.startFrame
  | .done, none => .next s.startFrame
  | .line _ _, _ => .refused .requestInProgress
  | _, _ => .fault .stuckInFault

end Sys2Proof.Machine
end

