-- ==== Sys2Proof/Machine/Sprite.lean ====
section
/-! DEFINITION. The sprite rasterizer (spec/44_sprite_rasterizer.md). SELECT_OBJECTS (R190) decodes three selectors
of each OAM entry: RM, GFX, then the size. Drawing an object (R196, R200) decodes three for each box column: RM gives
the source pixel, OBJMAP its tile number, CM its texel, which ends the column. -/

namespace Sys2Proof.Machine

/-! ### attr0.RM -/

/-- A box column of an affine object in a box of `bw` × `bh` (R199, R200): a column off screen or a texel outside the
true size is left unset. -/
def affineObjCol (bw bh : Nat) (s : State) (l : Fin 160) (j : Nat) (o : ObjDesc) (ix : Nat) : State :=
  match o.col ix with
  | none => s.endObjCol l j o ix
  | some c =>
    let t := affineSource o (s.objMatrix o.mat) bw bh l ix
    if insideBy o.w t.1 && insideBy o.h t.2 then
      s.goto (.line l (.draw j (.objMap o ix c t.1.toNat t.2.toNat)))
    else s.endObjCol l j o ix

/-- A column of a regular object (R196). -/
def regularObjCol (s : State) (l : Fin 160) (j : Nat) (o : ObjDesc) (ix : Nat) : State :=
  match o.col ix with
  | none => s.endObjCol l j o ix
  | some c =>
    let t := regularSource o l ix
    s.goto (.line l (.draw j (.objMap o ix c t.1 t.2)))

/-- OBJ_REGULAR: a candidate for selection (R190); drawn by DRAW_REGULAR_OBJ (R196). -/
def execObjRegular (_ : Attr0) (s : State) : Result :=
  match s.seq with
  | .line l (.select (.render i)) => .next (s.goto (.line l (.select (.gfx i))))
  | .line l (.draw j (.objRender o ix)) => .next (regularObjCol s l j o ix)
  | _ => .refused .outOfPlace

/-- OBJ_AFFINE: a candidate for selection (R190); drawn by DRAW_AFFINE_OBJ in a box of the true size (R198, R200). -/
def execObjAffine (_ : Attr0) (s : State) : Result :=
  match s.seq with
  | .line l (.select (.render i)) => .next (s.goto (.line l (.select (.gfx i))))
  | .line l (.draw j (.objRender o ix)) => .next (affineObjCol o.w o.h s l j o ix)
  | _ => .refused .outOfPlace

/-- OBJ_HIDDEN (R186): skipped before any other check. No drawn object has this mode (R192); as it "draws nothing",
its draw step would end at once. -/
def execObjHidden (_ : Attr0) (s : State) : Result :=
  match s.seq with
  | .line l (.select (.render i)) => .next (s.endEntry l i)
  | .line l (.draw j (.objRender _ _)) => .next (s.endObj l j)
  | _ => .refused .outOfPlace

/-- OBJ_AFFINE_DOUBLE: as OBJ_AFFINE, in a box of twice the size (R198, R200). -/
def execObjAffineDouble (_ : Attr0) (s : State) : Result :=
  match s.seq with
  | .line l (.select (.render i)) => .next (s.goto (.line l (.select (.gfx i))))
  | .line l (.draw j (.objRender o ix)) => .next (affineObjCol (2 * o.w) (2 * o.h) s l j o ix)
  | _ => .refused .outOfPlace

/-! ### attr0.GFX -/

/-- An entry whose graphics mode is drawn goes on to its size (R190). -/
def drawnGfx (s : State) : Result :=
  match s.seq with
  | .line l (.select (.gfx i)) => .next (s.goto (.line l (.select (.size i))))
  | _ => .refused .outOfPlace

/-- OBJ_GFX_NORMAL (R196). -/
def execObjGfxNormal (_ : Attr0) (s : State) : Result := drawnGfx s

/-- OBJ_GFX_SEMITRANS (R202): drawn exactly as a normal object. -/
def execObjGfxSemitrans (_ : Attr0) (s : State) : Result := drawnGfx s

/-- OBJ_GFX_WINDOW (R187): skipped. -/
def execObjGfxWindow (_ : Attr0) (s : State) : Result :=
  match s.seq with
  | .line l (.select (.gfx i)) => .next (s.endEntry l i)
  | _ => .refused .outOfPlace

/-- OBJ_GFX_PROHIBITED (R188): fatal, whatever the line. -/
def execObjGfxProhibited (_ : Attr0) (s : State) : Result :=
  match s.seq with
  | .line _ (.select (.gfx _)) => .next (s.raiseFatal .badObjMode)
  | _ => .refused .outOfPlace

/-! ### (attr0.SHAPE, attr1.SIZE) -/

/-- The vertical test of an entry of the given size (R189, R190): on the line, it is appended to the list. -/
def sizedObj (w h : Nat) (key : ObjKey) (s : State) : Result :=
  match s.seq with
  | .line l (.select (.size i)) =>
    let o := objDecode i key (s.objAttr2 i) w h
    .next ((if o.onLine l then s.withObjs (s.objs ++ [o]) else s).endEntry l i)
  | _ => .refused .outOfPlace

/-- OBJ_SIZE_8x8 (R96). -/
def execObjSize8x8 (k : ObjKey) (s : State) : Result := sizedObj 8 8 k s

/-- OBJ_SIZE_16x16 (R96). -/
def execObjSize16x16 (k : ObjKey) (s : State) : Result := sizedObj 16 16 k s

/-- OBJ_SIZE_32x32 (R96). -/
def execObjSize32x32 (k : ObjKey) (s : State) : Result := sizedObj 32 32 k s

/-- OBJ_SIZE_64x64 (R96). -/
def execObjSize64x64 (k : ObjKey) (s : State) : Result := sizedObj 64 64 k s

/-- OBJ_SIZE_16x8 (R96). -/
def execObjSize16x8 (k : ObjKey) (s : State) : Result := sizedObj 16 8 k s

/-- OBJ_SIZE_32x8 (R96). -/
def execObjSize32x8 (k : ObjKey) (s : State) : Result := sizedObj 32 8 k s

/-- OBJ_SIZE_32x16 (R96). -/
def execObjSize32x16 (k : ObjKey) (s : State) : Result := sizedObj 32 16 k s

/-- OBJ_SIZE_64x32 (R96). -/
def execObjSize64x32 (k : ObjKey) (s : State) : Result := sizedObj 64 32 k s

/-- OBJ_SIZE_8x16 (R96). -/
def execObjSize8x16 (k : ObjKey) (s : State) : Result := sizedObj 8 16 k s

/-- OBJ_SIZE_8x32 (R96). -/
def execObjSize8x32 (k : ObjKey) (s : State) : Result := sizedObj 8 32 k s

/-- OBJ_SIZE_16x32 (R96). -/
def execObjSize16x32 (k : ObjKey) (s : State) : Result := sizedObj 16 32 k s

/-- OBJ_SIZE_32x64 (R96). -/
def execObjSize32x64 (k : ObjKey) (s : State) : Result := sizedObj 32 64 k s

/-- OBJ_SHAPE_PROHIBITED (R188): fatal, whatever the line. -/
def execObjShapeProhibited (_ : ObjKey) (s : State) : Result :=
  match s.seq with
  | .line _ (.select (.size _)) => .next (s.raiseFatal .badObjShape)
  | _ => .refused .outOfPlace

/-! ### DISPCNT.OBJMAP -/

/-- OBJMAP_2D (R193). -/
def execObjMap2D (_ : DispCnt) (s : State) : Result :=
  match s.seq with
  | .line l (.draw j (.objMap o ix c px py)) =>
    .next (s.goto (.line l (.draw j (.objDepth o ix c (objTile2D o (px / 8) (py / 8)) px py))))
  | _ => .refused .outOfPlace

/-- OBJMAP_1D (R193). -/
def execObjMap1D (_ : DispCnt) (s : State) : Result :=
  match s.seq with
  | .line l (.draw j (.objMap o ix c px py)) =>
    .next (s.goto (.line l (.draw j (.objDepth o ix c (objTile1D o (px / 8) (py / 8)) px py))))
  | _ => .refused .outOfPlace

/-! ### attr0.CM -/

/-- OBJ_4BPP (R195, R158). -/
def execObj4bpp (_ : Attr0) (s : State) : Result :=
  match s.seq with
  | .line l (.draw j (.objDepth o ix c tn px py)) =>
    let r := s.objTexel4 tn px py
    .next ((r.2.plotObj c r.1 (s.palette4 .obj o.pb r.1)).endObjCol l j o ix)
  | _ => .refused .outOfPlace

/-- OBJ_8BPP (R195, R158). -/
def execObj8bpp (_ : Attr0) (s : State) : Result :=
  match s.seq with
  | .line l (.draw j (.objDepth o ix c tn px py)) =>
    let r := s.objTexel8 tn px py
    .next ((r.2.plotObj c r.1 (s.palette8 .obj r.1)).endObjCol l j o ix)
  | _ => .refused .outOfPlace

end Sys2Proof.Machine
end

