-- ==== Sys2Proof/Machine/TextBg.lean ====
section
/-! DEFINITION. The regular background renderer, DRAW_TEXT_BG (spec/40_tile_map_decoder.md R127), one selector a
step: the map size gives the entry's address, the screen entry its tile, flips and bank, the color depth its texel.
The texel step ends the column. -/

namespace Sys2Proof.Machine

/-- The map pixel of a column and its screen entry's address, for a map of the given size (R123, R124, R125). -/
def textLocate (size : BitVec 2) (b : BgCnt) (s : State) : Result :=
  match s.seq with
  | .line l (.draw j (.textSize n c)) =>
    let d := s.bgData n
    let x := (c.val + d.hofs.toNat) % (8 * textWt size)
    let y := (l.val + d.vofs.toNat) % (8 * textHt size)
    .next (s.goto (.line l (.draw j
      (.textEntry n c (seAddr b.sbb size (x / 8) (y / 8)) (Fin.ofNat 8 x) (Fin.ofNat 8 y)))))
  | _ => .refused .outOfPlace

/-- TEXT_32x32 (R123). -/
def execText32x32 (b : BgCnt) (s : State) : Result := textLocate 0 b s

/-- TEXT_64x32 (R123). -/
def execText64x32 (b : BgCnt) (s : State) : Result := textLocate 1 b s

/-- TEXT_32x64 (R123). -/
def execText32x64 (b : BgCnt) (s : State) : Result := textLocate 2 b s

/-- TEXT_64x64 (R123). -/
def execText64x64 (b : BgCnt) (s : State) : Result := textLocate 3 b s

/-- SE_TEXT (R126): the entry's tile and bank, and the pixel within the tile after its flips (R144). -/
def execSeText (e : SeText) (s : State) : Result :=
  match s.seq with
  | .line l (.draw j (.textEntry n c _ fx fy)) =>
    .next (s.goto (.line l (.draw j (.textDepth n c e.tile e.bank
      (if e.hflip then fx.rev else fx) (if e.vflip then fy.rev else fy)))))
  | _ => .refused .outOfPlace

/-- BG_4BPP (R140, R141, R157): the texel's nibble, in the entry's palette bank. -/
def execBg4bpp (b : BgCnt) (s : State) : Result :=
  match s.seq with
  | .line l (.draw j (.textDepth n c tile bank px py)) =>
    let r := s.bgTexel4 b.cbb tile px py
    .next ((r.2.plotBg n c r.1 (s.palette4 .bg bank r.1)).endTextCol l j n c)
  | _ => .refused .outOfPlace

/-- BG_8BPP (R140, R142, R157): the texel's byte; the bank is ignored. -/
def execBg8bpp (b : BgCnt) (s : State) : Result :=
  match s.seq with
  | .line l (.draw j (.textDepth n c tile _ px py)) =>
    let r := s.bgTexel8 b.cbb tile px py
    .next ((r.2.plotBg n c r.1 (s.palette8 .bg r.1)).endTextCol l j n c)
  | _ => .refused .outOfPlace

end Sys2Proof.Machine
end

