-- ==== Sys2Proof/Machine/Dispatch.lean ====
section
/-! DEFINITION. The dispatch: one arm per row of spec/opcode_table.json. -/

namespace Sys2Proof.Machine

def exec (i : Instr) (s : State) : Host.Outcome State Fault Refusal :=
  match i with
  | .mode0 d => Sys2Proof.Machine.execMode0 d s
  | .mode1 d => Sys2Proof.Machine.execMode1 d s
  | .mode2 d => Sys2Proof.Machine.execMode2 d s
  | .mode3 d => Sys2Proof.Machine.execMode3 d s
  | .mode4 d => Sys2Proof.Machine.execMode4 d s
  | .mode5 d => Sys2Proof.Machine.execMode5 d s
  | .mode6 d => Sys2Proof.Machine.execMode6 d s
  | .mode7 d => Sys2Proof.Machine.execMode7 d s
  | .objMap2D d => Sys2Proof.Machine.execObjMap2D d s
  | .objMap1D d => Sys2Proof.Machine.execObjMap1D d s
  | .bg4bpp b => Sys2Proof.Machine.execBg4bpp b s
  | .bg8bpp b => Sys2Proof.Machine.execBg8bpp b s
  | .text32x32 b => Sys2Proof.Machine.execText32x32 b s
  | .text64x32 b => Sys2Proof.Machine.execText64x32 b s
  | .text32x64 b => Sys2Proof.Machine.execText32x64 b s
  | .text64x64 b => Sys2Proof.Machine.execText64x64 b s
  | .aff128 b => Sys2Proof.Machine.execAff128 b s
  | .aff256 b => Sys2Proof.Machine.execAff256 b s
  | .aff512 b => Sys2Proof.Machine.execAff512 b s
  | .aff1024 b => Sys2Proof.Machine.execAff1024 b s
  | .affClip b => Sys2Proof.Machine.execAffClip b s
  | .affWrap b => Sys2Proof.Machine.execAffWrap b s
  | .seText e => Sys2Proof.Machine.execSeText e s
  | .seAff tile => Sys2Proof.Machine.execSeAff tile s
  | .objRegular a => Sys2Proof.Machine.execObjRegular a s
  | .objAffine a => Sys2Proof.Machine.execObjAffine a s
  | .objHidden a => Sys2Proof.Machine.execObjHidden a s
  | .objAffineDouble a => Sys2Proof.Machine.execObjAffineDouble a s
  | .objGfxNormal a => Sys2Proof.Machine.execObjGfxNormal a s
  | .objGfxSemitrans a => Sys2Proof.Machine.execObjGfxSemitrans a s
  | .objGfxWindow a => Sys2Proof.Machine.execObjGfxWindow a s
  | .objGfxProhibited a => Sys2Proof.Machine.execObjGfxProhibited a s
  | .obj4bpp a => Sys2Proof.Machine.execObj4bpp a s
  | .obj8bpp a => Sys2Proof.Machine.execObj8bpp a s
  | .objSize8x8 k => Sys2Proof.Machine.execObjSize8x8 k s
  | .objSize16x16 k => Sys2Proof.Machine.execObjSize16x16 k s
  | .objSize32x32 k => Sys2Proof.Machine.execObjSize32x32 k s
  | .objSize64x64 k => Sys2Proof.Machine.execObjSize64x64 k s
  | .objSize16x8 k => Sys2Proof.Machine.execObjSize16x8 k s
  | .objSize32x8 k => Sys2Proof.Machine.execObjSize32x8 k s
  | .objSize32x16 k => Sys2Proof.Machine.execObjSize32x16 k s
  | .objSize64x32 k => Sys2Proof.Machine.execObjSize64x32 k s
  | .objSize8x16 k => Sys2Proof.Machine.execObjSize8x16 k s
  | .objSize8x32 k => Sys2Proof.Machine.execObjSize8x32 k s
  | .objSize16x32 k => Sys2Proof.Machine.execObjSize16x32 k s
  | .objSize32x64 k => Sys2Proof.Machine.execObjSize32x64 k s
  | .objShapeProhibited k => Sys2Proof.Machine.execObjShapeProhibited k s
  | .blendOff b => Sys2Proof.Machine.execBlendOff b s
  | .blendAlpha b => Sys2Proof.Machine.execBlendAlpha b s
  | .blendWhite b => Sys2Proof.Machine.execBlendWhite b s
  | .blendBlack b => Sys2Proof.Machine.execBlendBlack b s
  | .render => Sys2Proof.Machine.execRender s

end Sys2Proof.Machine
end

