-- ==== Sys2Proof/Machine/HostMoves.lean ====
section
/-! DEFINITION. The host's side of the interface: its writes (spec/20_memory.md R61–R63, spec/10_state.md R31), the
register names and pseudo-operations of the host-program notation (spec/10_state.md R22, spec/30_encoding.md R102),
and a launch with the host's own contents (R44, R45). -/

namespace Sys2Proof.Machine

open Sys2Proof.Config

/-- What a host write stores (R102). -/
def HostWrite.store (m : Memory) : HostWrite → Memory
  | .w8 r off v => m.write8 r off v
  | .w16 r off v => m.write16 r off v

/-- A host write: any byte of a region, a 16-bit word at an even offset (R63). An offset outside the region does not
exist (R20). What an illegal write does is DESIGN CHOICE, notes/assumptions/16.md. -/
def State.hostWrite (s : State) (w : HostWrite) : Result :=
  match w with
  | .w8 r off _ => if off < r.size then .next (s.withMem (w.store s.mem)) else .fault (.noSuchAddress r off)
  | .w16 r off _ =>
    if off % 2 = 1 then .refused .misalignedWrite
    else if off < r.size then .next (s.withMem (w.store s.mem))
    else .fault (.noSuchAddress r off)

/-- The names of R22's register map. -/
inductive RegName where
  | dispcnt | vcount
  | bgcnt (n : Fin 4) | bghofs (n : Fin 4) | bgvofs (n : Fin 4)
  | bgpa (n : AffLayer) | bgpb (n : AffLayer) | bgpc (n : AffLayer) | bgpd (n : AffLayer)
  | bgxl (n : AffLayer) | bgxh (n : AffLayer) | bgyl (n : AffLayer) | bgyh (n : AffLayer)
  | win0h | win1h | win0v | win1v | winin | winout | mosaic
  | bldcnt | bldalpha | bldy | keyinput
  deriving DecidableEq, Repr

/-- `offset_of` (R9, R22). The six window registers stand in the order their row lists them (DEDUCED,
notes/assumptions/12.md; nothing reads them). -/
def RegName.offset : RegName → Nat
  | .dispcnt => 0x000
  | .vcount => 0x006
  | .bgcnt n => 0x008 + 2 * n.val
  | .bghofs n => 0x010 + 4 * n.val
  | .bgvofs n => 0x012 + 4 * n.val
  | .bgpa n => n.base
  | .bgpb n => n.base + 2
  | .bgpc n => n.base + 4
  | .bgpd n => n.base + 6
  | .bgxl n => n.base + 8
  | .bgxh n => n.base + 10
  | .bgyl n => n.base + 12
  | .bgyh n => n.base + 14
  | .win0h => 0x040
  | .win1h => 0x042
  | .win0v => 0x044
  | .win1v => 0x046
  | .winin => 0x048
  | .winout => 0x04A
  | .mosaic => 0x04C
  | .bldcnt => 0x050
  | .bldalpha => 0x052
  | .bldy => 0x054
  | .keyinput => 0x130

/-- `FILL`: `count` byte writes of one value from an offset on (R102). -/
def hostFill (r : Region) (off : Nat) : Nat → Byte → List HostMove
  | 0, _ => []
  | n + 1, v => .write (.w8 r off v) :: hostFill r (off + 1) n v

/-- `SET`: one 16-bit write at a register's offset (R102). -/
def hostSet (reg : RegName) (v : Half) : HostMove := .write (.w16 .io reg.offset v)

/-- A launch: the reset state with what a launch brings: the parameters, the free inputs of R44, which are the region
contents and the sink, and the host program (R45). -/
def State.launch (cfg : Params) (mem : Memory) (sink : Sink) (host : List HostMove) : State :=
  { State.reset with cfg := cfg, mem := mem, sink := sink, host := host }

end Sys2Proof.Machine
end

