-- ==== Sys2Proof/Machine/Fetch.lean ====
section
/-! DEFINITION. What the next step does: inside a request, the selector word the sequencer stands at is fetched from
its region (R99, R41); outside one, and at a line boundary when `P_LINE_HOOK` is true, the host moves (R13, R69, R70).
After it, where a bare word of the opcode table is placed so that the next step fetches it. -/

namespace Sys2Proof.Machine

open Sys2Proof.Config

/-- A place a selector's word is read from. -/
structure Place where
  sel : Selector
  region : Region
  off : Nat
  deriving DecidableEq, Repr

/-- The offset of BGnCNT (R22). -/
def bgCntOff (n : Fin 4) : Nat := 0x008 + 2 * n.val

/-- Where the selector of each phase position is read from (R22, R34, R80). -/
def fetchPlace : Phase → Place
  | .select .mode => ⟨.bgMode, .io, 0x000⟩
  | .select (.render i) => ⟨.objRender, .oam, 8 * i.val⟩
  | .select (.gfx i) => ⟨.objGfx, .oam, 8 * i.val⟩
  | .select (.size i) => ⟨.objSize, .oam, 8 * i.val⟩
  | .draw _ (.textSize n _) => ⟨.textSize, .io, bgCntOff n⟩
  | .draw _ (.textEntry _ _ addr _ _) => ⟨.seText, .vram, addr⟩
  | .draw _ (.textDepth n _ _ _ _ _) => ⟨.bgDepth, .io, bgCntOff n⟩
  | .draw _ (.affSize n _) => ⟨.affSize, .io, bgCntOff n.bg⟩
  | .draw _ (.affOverflow n _ _ _ _) => ⟨.affOverflow, .io, bgCntOff n.bg⟩
  | .draw _ (.affEntry _ _ addr _ _ _) => ⟨.seAff, .vram, addr⟩
  | .draw _ (.objRender o _) => ⟨.objRender, .oam, 8 * o.idx.val⟩
  | .draw _ (.objMap _ _ _ _ _) => ⟨.objMapping, .io, 0x000⟩
  | .draw _ (.objDepth o _ _ _ _ _) => ⟨.objDepth, .oam, 8 * o.idx.val⟩
  | .compose _ => ⟨.blendMode, .io, 0x050⟩

/-- The bytes at a place: the selector's whole word, if the region has it. -/
def State.fetch (s : State) (p : Place) : Option (List Byte) :=
  if p.off + p.sel.width ≤ p.region.size then some (s.mem.bytes p.region p.off p.sel.width) else none

/-- A write of the host's line hook that is due: the sequencer is at the start of line `l' + 1`, the hook is on, and
the host's next move is a write of line `l'`'s hook (R70). -/
def State.hookDue (s : State) (l : Fin 160) (ph : Phase) : Option (HostWrite × State) :=
  match ph, s.host with
  | .select .mode, .hook l' w :: rest =>
    if s.cfg.lineHook = true ∧ l' + 1 = l.val then some (w, s.withHost rest) else none
  | _, _ => none

/-- What the next step does. -/
inductive Move where
  /-- decodes a selector's bytes and runs the instruction in a state -/
  | instr (sel : Selector) (bytes : List Byte) (s : State)
  /-- makes a host write in a state -/
  | write (w : HostWrite) (s : State)
  /-- takes the host's sink over in a state -/
  | supply (k : Sink) (s : State)
  /-- waits for the host -/
  | wait
  /-- FAULT with nothing the host may still do -/
  | stuck
  /-- a hook move that no line boundary takes -/
  | strayHook
  /-- a selector word outside its region -/
  | noAddress (r : Region) (off : Nat)
  deriving DecidableEq, Repr

/-- The host's next move outside a request (R13, R271, R284); `rest` is what the block does with none. -/
def State.hostMove (s : State) (rest : Move) : Move :=
  match s.host with
  | [] => rest
  | .write w :: more => .write w (s.withHost more)
  | .sink k :: more => .supply k (s.withHost more)
  | .render :: more => .instr .request [] (s.withHost more)
  | .hook _ _ :: _ => .strayHook

/-- The next step: in a request, the due hook write or the selector the sequencer stands at; outside one, the host's
next move. With no move to come, IDLE and DONE wait and FAULT is stuck (R268). -/
def State.nextMove (s : State) : Move :=
  match s.seq with
  | .line l ph =>
    match s.hookDue l ph with
    | some (w, s') => .write w s'
    | none =>
      let p := fetchPlace ph
      match s.fetch p with
      | some bytes => .instr p.sel bytes s
      | none => .noAddress p.region p.off
  | .idle => s.hostMove .wait
  | .done => s.hostMove .wait
  | .fault => s.hostMove .stuck

/-! ### Placing a table word -/

/-- The object a placed object selector is drawn for: an 8×8 regular object at the origin, from OAM entry 0. -/
def placedObj : ObjDesc where
  idx := 0
  y := 0
  rm := 0
  gfx := 0
  cm := false
  shape := 0
  x := 0
  size := 0
  hf := false
  vf := false
  mat := 0
  tile := 0
  prio := 0
  pb := 0
  w := 8
  h := 8

/-- Puts the sequencer on line 0 where a selector is decoded, with the layer or object that stands there; RENDER is
put first in the host's program instead. -/
def State.placeAt (s : State) : Selector → State
  | .bgMode => { s with seq := .line 0 (.select .mode) }
  | .objMapping =>
    { s with objs := [placedObj], k := 0, layers := [], seq := .line 0 (.draw 0 (.objMap placedObj 0 0 0 0)) }
  | .bgDepth => { s with layers := [.text 0], seq := .line 0 (.draw 0 (.textDepth 0 0 0 0 0 0)) }
  | .textSize => { s with layers := [.text 0], seq := .line 0 (.draw 0 (.textSize 0 0)) }
  | .affSize => { s with layers := [.affine .bg2], seq := .line 0 (.draw 0 (.affSize .bg2 0)) }
  | .affOverflow => { s with layers := [.affine .bg2], seq := .line 0 (.draw 0 (.affOverflow .bg2 0 128 0 0)) }
  | .seText => { s with layers := [.text 0], seq := .line 0 (.draw 0 (.textEntry 0 0 0 0 0)) }
  | .seAff => { s with layers := [.affine .bg2], seq := .line 0 (.draw 0 (.affEntry .bg2 0 0 0 0 0)) }
  | .objRender => { s with objs := [], k := 0, seq := .line 0 (.select (.render 0)) }
  | .objGfx => { s with objs := [], k := 0, seq := .line 0 (.select (.gfx 0)) }
  | .objDepth =>
    { s with objs := [placedObj], k := 0, layers := [], seq := .line 0 (.draw 0 (.objDepth placedObj 0 0 0 0 0)) }
  | .objSize => { s with objs := [], k := 0, seq := .line 0 (.select (.size 0)) }
  | .blendMode => { s with seq := .line 0 (.compose 0) }
  | .request =>
    { s with
      host := .render :: s.host
      seq := match s.seq with | .line _ _ => .idle | q => q }

/-- Stores a selector's bytes where the placed sequencer fetches them. -/
def State.placeWord (s : State) (sel : Selector) (w : Nat) : State :=
  let s1 := s.placeAt sel
  match s1.seq with
  | .line _ ph =>
    let p := fetchPlace ph
    s1.withMem (s1.mem.writeBytes p.region p.off (bytesOfNat sel.width w))
  | _ => s1

end Sys2Proof.Machine
end

