-- ==== Sys2Proof/Machine/Run.lean ====
section
/-! DEFINITION. One move carried out: a fetched selector is decoded and the instruction run, a host write is made, the
host's sink is taken over, or the step says why nothing runs. -/

namespace Sys2Proof.Machine

/-- Carries out the move of state `s`. A waiting block stays as it is. -/
def runMove (s : State) : Move → Result
  | .instr sel bytes s' =>
    match decode sel bytes with
    | .ok (i, _) => exec i s'
    | .error _ => .refused .undecodable
  | .write w s' => s'.hostWrite w
  | .supply k s' => .next (s'.withSink k)
  | .wait => .next s
  | .stuck => .fault .stuckInFault
  | .strayHook => .refused .hookOutOfPlace
  | .noAddress r off => .fault (.noSuchAddress r off)

end Sys2Proof.Machine
end

