-- ==== Sys2Proof/Machine/Step.lean ====
section
/-! DEFINITION. One step of the machine, and the placing of a table word at its next fetch. -/

namespace Sys2Proof.Machine

/-- One step: the move of the state, carried out. -/
def step (s : State) : Host.Outcome State Fault Refusal := runMove s s.nextMove

/-- `s` with a word of the opcode table where the next step fetches it, and the sequencer at the place that decodes
it (notes/assumptions/3.md). A word no row has leaves `s` as it is. -/
def State.withFetchWord (s : State) (nbits w : Nat) : State :=
  match tableSelector nbits w with
  | some sel => s.placeWord sel w
  | none => s

end Sys2Proof.Machine
end

