-- ==== Sys2Proof/Machine/Reference.lean ====
section
/-! DEFINITION. The operations of the rules as their pseudocode writes them, whole: DRAW_TEXT_BG (R127),
DRAW_AFFINE_BG (R174), SELECT_OBJECTS (R190), DRAW_REGULAR_OBJ (R196), DRAW_AFFINE_OBJ (R200), the line renderers
(R221, R223), COMPOSE_LINE (R248), LINE_STEP (R222) and RENDER_FRAME (R224), over the same leaf operations the
instructions use. The machine's step does not call them: they say what its steps add up to, and
Certificates/Slice0/Obligations.lean states that they do. -/

namespace Sys2Proof.Machine.Reference

open Sys2Proof.Machine

/-- A loop over the columns 0–239. -/
def overColumns (f : State → Fin 240 → State) (s : State) : State := (List.finRange 240).foldl f s

/-! ### A tile row -/

/-- The body of DECODE_SPAN's loop (R145), with its early-out on a filled Pixel (R129, R217). -/
def spanColumn (sp : Space) (rowoff : Nat) (cd : Bool) (t : Palette) (pb : BitVec 4) (xs : Int) (hf top bot : Bool)
    (s : State) (i : Fin 8) : State :=
  match screenCol (xs + (i.val : Int)) with
  | none => s
  | some c =>
    let px := if hf then i.rev else i
    let r := if cd then s.texel8 sp rowoff px.val else s.texel4 sp rowoff px.val
    if r.1 = 0 then r.2
    else if filled (r.2.pixel c) then r.2
    else r.2.plot c (if cd then s.palette8 t r.1 else s.palette4 t pb r.1) top bot

/-- DECODE_SPAN (R145): one 8-pixel tile row onto screen columns `xs … xs + 7`, cut at the screen's edges (R146). -/
def decodeSpan (sp : Space) (rowoff : Nat) (cd : Bool) (t : Palette) (pb : BitVec 4) (xs : Int) (hf top bot : Bool)
    (s : State) : State :=
  (List.finRange 8).foldl (spanColumn sp rowoff cd t pb xs hf top bot) s

/-! ### Backgrounds -/

/-- The body of DRAW_TEXT_BG's loop (R127). -/
def textColumn (n : Fin 4) (l : Fin 160) (s : State) (c : Fin 240) : State :=
  let d := s.bgData n
  let x := (c.val + d.hofs.toNat) % (8 * textWt d.size)
  let y := (l.val + d.vofs.toNat) % (8 * textHt d.size)
  let se := SeText.ofWord (s.mem.read16 .vram (seAddr d.sbb d.size (x / 8) (y / 8)))
  let px := if se.hflip then (Fin.ofNat 8 x).rev else Fin.ofNat 8 x
  let py := if se.vflip then (Fin.ofNat 8 y).rev else Fin.ofNat 8 y
  let r := if d.cd then s.bgTexel8 d.cbb se.tile px py else s.bgTexel4 d.cbb se.tile px py
  let col := if d.cd then s.palette8 .bg r.1 else s.palette4 .bg se.bank r.1
  r.2.plotIndex c r.1 col d.top d.bot

/-- DRAW_TEXT_BG (R127). -/
def drawTextBg (n : Fin 4) (l : Fin 160) (s : State) : State := overColumns (textColumn n l) s

/-- Screen tile column `k − 1` of the source's walk (R128): map tile column `(hofs div 8) + k − 1`, at screen start
`8(k − 1) − (hofs mod 8)`. -/
def textTileColumn (n : Fin 4) (l : Fin 160) (s : State) (k : Nat) : State :=
  let d := s.bgData n
  let y := (l.val + d.vofs.toNat) % (8 * textHt d.size)
  let tx := (d.hofs.toNat / 8 + textWt d.size + k - 1) % textWt d.size
  let se := SeText.ofWord (s.mem.read16 .vram (seAddr d.sbb d.size tx (y / 8)))
  let py := if se.vflip then (Fin.ofNat 8 y).rev else Fin.ofNat 8 y
  let rowoff := charBase d.cbb + se.tile.toNat * (if d.cd then 64 else 32) + py.val * (if d.cd then 8 else 4)
  decodeSpan .bg rowoff d.cd .bg se.bank (8 * ((k : Int) - 1) - (d.hofs.toNat % 8 : Nat)) se.hflip d.top d.bot s

/-- DRAW_TEXT_BG as the source walks it: tile columns −1 to 30, one span each (R128). -/
def drawTextBgByTiles (n : Fin 4) (l : Fin 160) (s : State) : State :=
  (List.range 32).foldl (textTileColumn n l) s

/-- The body of DRAW_AFFINE_BG's loop (R174). -/
def affineColumn (n : AffLayer) (l : Fin 160) (s : State) (c : Fin 240) : State :=
  let d := s.bgData n.bg
  let size := 128 <<< d.size.toNat
  let t := affCoord (s.affData n) l c
  let draw (tx ty : Nat) : State :=
    let tile := s.mem.read8 .vram (affEntryAddr d.sbb size tx ty)
    let r := s.affTexel (charBase d.cbb) tile (Fin.ofNat 8 tx) (Fin.ofNat 8 ty)
    r.2.plotIndex c r.1 (s.palette8 .bg r.1) d.top d.bot
  if d.ovf then draw (wrapTo size t.1).toNat (wrapTo size t.2).toNat
  else if insideBy size t.1 && insideBy size t.2 then draw t.1.toNat t.2.toNat
  else s

/-- DRAW_AFFINE_BG (R174). -/
def drawAffineBg (n : AffLayer) (l : Fin 160) (s : State) : State := overColumns (affineColumn n l) s

/-- Draws a layer of a mode (R221, R223). -/
def drawLayer (l : Fin 160) (s : State) : Layer → State
  | .text n => drawTextBg n l s
  | .affine n => drawAffineBg n l s

/-! ### Objects -/

/-- The object size table (R96). -/
def sizeTable (shape size : BitVec 2) : Option (Nat × Nat) :=
  match shape.toNat, size.toNat with
  | 0, 0 => some (8, 8)
  | 0, 1 => some (16, 16)
  | 0, 2 => some (32, 32)
  | 0, _ => some (64, 64)
  | 1, 0 => some (16, 8)
  | 1, 1 => some (32, 8)
  | 1, 2 => some (32, 16)
  | 1, _ => some (64, 32)
  | 2, 0 => some (8, 16)
  | 2, 1 => some (8, 32)
  | 2, 2 => some (16, 32)
  | 2, _ => some (32, 64)
  | _, _ => none

/-- OBJ_TILE under the mapping of DISPCNT.OBJMAP (R193). -/
def objTile (s : State) (o : ObjDesc) (tcol trow : Nat) : Nat :=
  if s.dispCnt.objMap then objTile1D o tcol trow else objTile2D o tcol trow

/-- An object pixel: its texel (R195), and its offer to the row under the objects' flags (R196, R200, R201). -/
def objPixel (s : State) (o : ObjDesc) (c : Fin 240) (px py : Nat) : State :=
  let tn := objTile s o (px / 8) (py / 8)
  let r := if o.cm then s.objTexel8 tn px py else s.objTexel4 tn px py
  let col := if o.cm then s.palette8 .obj r.1 else s.palette4 .obj o.pb r.1
  r.2.plotIndex c r.1 col s.bldCnt.topObj s.bldCnt.bottomObj

/-- The body of DRAW_REGULAR_OBJ, per pixel (R196). -/
def regularColumn (o : ObjDesc) (l : Fin 160) (s : State) (ix : Nat) : State :=
  match o.col ix with
  | none => s
  | some c => objPixel s o c (regularSource o l ix).1 (regularSource o l ix).2

/-- Source tile column `j` of a regular object, as one span (R196). -/
def regularTileColumn (o : ObjDesc) (l : Fin 160) (s : State) (j : Nat) : State :=
  let r := (regularSource o l 0).2
  let rowoff := objTile s o j (r / 8) * 32 + (r % 8) * (if o.cm then 8 else 4)
  let xs := o.x + 8 * ((if o.hf then o.w / 8 - 1 - j else j : Nat) : Int)
  decodeSpan .obj rowoff o.cm .obj o.pb xs o.hf s.bldCnt.topObj s.bldCnt.bottomObj s

/-- DRAW_REGULAR_OBJ by tile columns (R196). -/
def drawRegularObjByTiles (o : ObjDesc) (l : Fin 160) (s : State) : State :=
  (List.range (o.w / 8)).foldl (regularTileColumn o l) s

/-- DRAW_REGULAR_OBJ per pixel (R196). -/
def drawRegularObj (o : ObjDesc) (l : Fin 160) (s : State) : State :=
  (List.range o.w).foldl (regularColumn o l) s

/-- The body of DRAW_AFFINE_OBJ's loop (R200). -/
def affineObjColumn (o : ObjDesc) (l : Fin 160) (s : State) (ix : Nat) : State :=
  match o.col ix with
  | none => s
  | some c =>
    let t := affineSource o (s.objMatrix o.mat) o.bw o.bh l ix
    if insideBy o.w t.1 && insideBy o.h t.2 then objPixel s o c t.1.toNat t.2.toNat else s

/-- DRAW_AFFINE_OBJ (R200). -/
def drawAffineObj (o : ObjDesc) (l : Fin 160) (s : State) : State :=
  (List.range o.bw).foldl (affineObjColumn o l) s

/-- DRAW_OBJ (R192), with the cursor moved past the object (R221). -/
def drawObj (l : Fin 160) (s : State) (o : ObjDesc) : State :=
  let s1 := if o.rm = 0 then drawRegularObj o l s else drawAffineObj o l s
  s1.withCursor (s1.k + 1)

/-- One entry of SELECT_OBJECTS' loop (R190): the list grows, stays, or a reason is raised. -/
def selectEntry (l : Fin 160) (s : State) (i : Fin 128) : Except FatalReason State :=
  let key := s.objKey i
  if key.a0.rm = 2 then .ok s
  else if key.a0.gfx = 2 then .ok s
  else if key.a0.gfx = 3 then .error .badObjMode
  else
    match sizeTable key.a0.shape key.a1.size with
    | none => .error .badObjShape
    | some (w, h) =>
      let o := objDecode i key (s.objAttr2 i) w h
      .ok (if o.onLine l then s.withObjs (s.objs ++ [o]) else s)

/-- SELECT_OBJECTS' loop (R190); a raised reason leaves the list as it was (R268). -/
def selectEntries (l : Fin 160) : List (Fin 128) → State → Except (FatalReason × State) State
  | [], s => .ok ((s.withObjs (sortBy objBefore s.objs)).withCursor 0)
  | i :: rest, s =>
    match selectEntry l s i with
    | .ok s' => selectEntries l rest s'
    | .error r => .error (r, s)

/-- SELECT_OBJECTS (R190, R191). -/
def selectObjects (l : Fin 160) (s : State) : Except (FatalReason × State) State :=
  if s.dispCnt.objEn then selectEntries l (List.finRange 128) ((s.withObjs []).withCursor 0)
  else .ok ((s.withObjs []).withCursor 0)

/-! ### Lines -/

/-- The `while` of R221: draws the objects at the front of the list whose priority is at most `p`. -/
def drawObjsUpTo (l : Fin 160) (p : BitVec 2) : List ObjDesc → State → List ObjDesc × State
  | [], s => ([], s)
  | o :: rest, s =>
    if o.prio.toNat ≤ p.toNat then drawObjsUpTo l p rest (drawObj l s o) else (o :: rest, s)

/-- The loop of R221 over the layers in draw order, with the objects not yet drawn. -/
def drawInterleaved (l : Fin 160) : List Layer → List ObjDesc → State → State
  | [], os, s => os.foldl (drawObj l) s
  | n :: rest, os, s =>
    let r := drawObjsUpTo l (s.layerPrio n) os s
    drawInterleaved l rest r.1 (if s.layerEnabled n then drawLayer l r.2 n else r.2)

/-- LAYERS(mode) of modes 0 and 1 (R220). -/
def layersM01 (mode : BitVec 3) : List Layer :=
  if mode = 0 then [.text 0, .text 1, .text 2, .text 3] else [.text 0, .text 1, .affine .bg2]

/-- DRAW_LINE_M01 (R221). The layers in draw order stand in the state while the line is drawn. -/
def drawLineM01 (l : Fin 160) (s : State) : Except (FatalReason × State) State :=
  let order := sortBy s.layerBefore (layersM01 s.dispCnt.bgMode)
  match selectObjects l (s.withLayers order) with
  | .error e => .error e
  | .ok s1 => .ok ((drawInterleaved l order s1.objs s1).withLayers [])

/-- DRAW_LINE_M2 (R223). -/
def drawLineM2 (l : Fin 160) (s : State) : State :=
  (mode2Layers s).foldl (fun s n => if s.layerEnabled n then drawLayer l s n else s) s

/-- GETCOLOR under BLDCNT.MODE (R240, R243–R246). -/
def getColor (s : State) (p : Pixel) : Color15 :=
  match s.bldCnt.mode.toNat with
  | 0 => getColorOff p s.backdrop
  | 1 => getColorAlpha p s.backdrop s.bldCnt.bottomBackdrop s.eva s.evb
  | 2 => getColorFade 0x7FFF p s.backdrop s.bldCnt.topBackdrop s.evy
  | _ => getColorFade 0x0000 p s.backdrop s.bldCnt.topBackdrop s.evy

/-- COMPOSE_LINE (R248). -/
def composeLine (l : Fin 160) (s : State) : State :=
  overColumns (fun s c => s.frameWrite l c (getColor s (s.pixel c))) s

/-- What LINE_STEP draws before it composes (R222): the row is emptied, then the mode is dispatched. -/
def drawLine (l : Fin 160) (s : State) : Except (FatalReason × State) State :=
  let s0 := s.startLine
  if s0.dispCnt.bgMode.toNat < 2 then drawLineM01 l s0
  else if s0.dispCnt.bgMode = 2 then .ok (drawLineM2 l s0)
  else .error (.badMode, s0)

/-- LINE_STEP (R222). -/
def lineStep (l : Fin 160) (s : State) : Except (FatalReason × State) State :=
  match drawLine l s with
  | .error e => .error e
  | .ok s1 => .ok (composeLine l s1)

/-- Where the sequencer is after line `l` (R222, R224). -/
def seqAfter (l : Fin 160) : Seq :=
  match nextLine l with
  | some l' => .line l' (.select .mode)
  | none => .done

/-- A line from start to end, as a state: the next line or DONE, or FAULT with the reason (R260). -/
def lineResult (l : Fin 160) (s : State) : State :=
  match lineStep l s with
  | .ok s' => s'.goto (seqAfter l)
  | .error (r, s') => s'.raiseFatal r

/-- The writes of the host's line hook before line `l` (R70): the moves at the head of the host's program that name the
boundary before `l`. -/
def hookWrites (l : Fin 160) : List HostMove → State → State
  | .hook l' w :: rest, s =>
    if l' + 1 = l.val then hookWrites l rest ((s.withMem (w.store s.mem)).withHost rest) else s
  | _, s => s

/-- The regions as line `l` sees them: with `P_LINE_HOOK`, after the hook's writes (R70, R224). -/
def beforeLine (l : Fin 160) (s : State) : State := if s.cfg.lineHook then hookWrites l s.host s else s

/-- The loop of RENDER_FRAME (R224): a raised reason stops it. -/
def renderLines : List (Fin 160) → State → State
  | [], s => s
  | l :: rest, s =>
    match lineStep l (beforeLine l s) with
    | .ok s' => renderLines rest (s'.goto (seqAfter l))
    | .error (r, s') => s'.raiseFatal r

/-- RENDER_FRAME (R224), from a state that meets its precondition. -/
def renderFrame (s : State) : State := renderLines (List.finRange 160) s.startFrame

end Sys2Proof.Machine.Reference
end

