-- ==== Sys2Proof/Safety.lean ====
section
/-! DEFINITION. What a good state is (the invariant every step keeps), and what a safe step is. -/

namespace Sys2Proof.Machine

open Sys2Proof.Config

/-- A Pixel the rules can make (R215, R216): empty, or one color, or two layers with the first top-eligible. -/
def Pixel.legal (p : Pixel) : Prop :=
  (p.n = 0 → p.t0 = false ∧ p.c1 = none) ∧ (p.n = 1 → p.c1 = none) ∧ (p.n = 2 → p.t0 = true)

/-- Every Pixel of the row is legal. -/
def State.pixelsLegal (s : State) : Prop := ∀ c : Fin 240, (s.pixel c).legal

/-- A map size an affine layer can have (R169). -/
def affSizes : List Nat := [128, 256, 512, 1024]

/-- A draw position stands on the layer or object the line is drawing, and an entry address it carries is in VRAM
(R125, R172). -/
def DrawPos.ok (s : State) : DrawPos → Prop
  | .textSize n _ => s.layers.head? = some (.text n)
  | .textEntry n _ addr _ _ => s.layers.head? = some (.text n) ∧ addr + 2 ≤ Region.size .vram
  | .textDepth n _ _ _ _ _ => s.layers.head? = some (.text n)
  | .affSize n _ => s.layers.head? = some (.affine n)
  | .affOverflow n _ size _ _ => s.layers.head? = some (.affine n) ∧ size ∈ affSizes
  | .affEntry n _ addr _ _ _ => s.layers.head? = some (.affine n) ∧ addr + 1 ≤ Region.size .vram
  | .objRender o _ => s.objs[s.k]? = some o
  | .objMap o _ _ _ _ => s.objs[s.k]? = some o
  | .objDepth o _ _ _ _ _ => s.objs[s.k]? = some o

/-- A phase agrees with the object cursor and the layers (R38, R221): nothing is drawn while objects are selected, and
nothing is left to draw when the line is composed. -/
def Phase.ok (s : State) : Phase → Prop
  | .select .mode => True
  | .select (.render _) => s.k = 0
  | .select (.gfx _) => s.k = 0
  | .select (.size _) => s.k = 0
  | .draw _ p => p.ok s
  | .compose _ => s.layers = [] ∧ s.k = s.objs.length

/-- The sequencer's position is consistent with the state. -/
def State.seqOk (s : State) : Prop :=
  match s.seq with
  | .line _ ph => ph.ok s
  | .idle | .done | .fault => True

/-- The invariant: memory in canonical form, every Pixel legal, the fault recorded exactly in FAULT (R40, R260), the
cursor on the object list (R38), and a consistent position. -/
structure State.Inv (s : State) : Prop where
  memWf : s.mem.wf = true
  pixels : s.pixelsLegal
  faultSeq : s.fault.isSome = true ↔ s.seq = .fault
  cursor : s.k ≤ s.objs.length
  position : s.seqOk

/-- A request is in progress (R41). -/
def State.inLine (s : State) : Prop := ∃ l ph, s.seq = .line l ph

/-- A request has ended (R278). -/
def State.ended (s : State) : Prop := s.seq = .done ∨ s.seq = .fault

/-- A step goes on: neither a fault nor a refusal. -/
def goesOn (r : Result) : Prop := ∃ t, r = .next t

/-- `n` steps of the machine lead from one state to another, none of them stopping. -/
def reaches (n : Nat) (s t : State) : Prop :=
  match n with
  | 0 => s = t
  | n + 1 => ∃ u, step s = .next u ∧ reaches n u t

/-- What the block never changes: the parameters, the regions it only reads (R20), the host's program, and the latched
reference points (R39). -/
structure State.sameInputs (s t : State) : Prop where
  cfg : t.cfg = s.cfg
  mem : t.mem = s.mem
  host : t.host = s.host
  x2 : t.x2 = s.x2
  y2 : t.y2 = s.y2
  x3 : t.x3 = s.x3
  y3 : t.y3 = s.y3

/-- No write of the host's line hook is due (R70): in a line, the next step is the block's. -/
def State.noHookDue (s : State) : Prop := ∀ l ph, s.seq = .line l ph → s.hookDue l ph = none

/-- A request can be made: the block is idle or done, with no fault, and the host asks next (R224, R281). -/
structure State.asksForAFrame (s : State) (rest : List HostMove) : Prop where
  ready : s.seq = .idle ∨ s.seq = .done
  fault : s.fault = none
  host : s.host = .render :: rest

/-- A sequence of SETCOLOR calls on one Pixel (R216, R218): each a color, a top flag and a bottom flag. -/
def setColors (p : Pixel) (ws : List (Color15 × Bool × Bool)) : Pixel :=
  ws.foldl (fun q w => setColor q w.1 w.2.1 w.2.2) p

/-- Changes the state of a next outcome and leaves the others. -/
def mapNext (f : State → State) : Result → Result
  | .next s => .next (f s)
  | .fault r => .fault r
  | .refused r => .refused r

/-! ### The host's moves -/

/-- A write the host may make: inside its region, at an even offset when it is 16 bits wide (R20, R63). -/
def HostWrite.legal : HostWrite → Prop
  | .w8 r off _ => off < r.size
  | .w16 r off _ => off % 2 = 0 ∧ off < r.size

/-- Every write the line hook may make from a host program is legal; with `P_LINE_HOOK` false it makes none (R70). -/
def State.hooksLegal (s : State) (program : List HostMove) : Prop :=
  s.cfg.lineHook = true → ∀ l w, HostMove.hook l w ∈ program → w.legal

/-- A sink whose lines below `n` are those of `a` and whose other lines are those of `b`. -/
def sinkUpTo (n : Nat) (a b : Sink) : Sink := Vector.ofFn fun l : Fin 160 => if l.val < n then a[l] else b[l]

/-! ### Draw positions -/

/-- The column a layer is being drawn at. -/
def DrawPos.layerCol : DrawPos → Option (Fin 240)
  | .textSize _ c => some c
  | .textEntry _ c _ _ _ => some c
  | .textDepth _ c _ _ _ _ => some c
  | .affSize _ c => some c
  | .affOverflow _ c _ _ _ => some c
  | .affEntry _ c _ _ _ _ => some c
  | .objRender _ _ | .objMap _ _ _ _ _ | .objDepth _ _ _ _ _ _ => none

/-- The object being drawn, and its box column. -/
def DrawPos.objCol : DrawPos → Option (ObjDesc × Nat)
  | .objRender o ix => some (o, ix)
  | .objMap o ix _ _ _ => some (o, ix)
  | .objDepth o ix _ _ _ _ => some (o, ix)
  | .textSize _ _ | .textEntry _ _ _ _ _ | .textDepth _ _ _ _ _ _ | .affSize _ _ | .affOverflow _ _ _ _ _
  | .affEntry _ _ _ _ _ _ => none

/-- The position is in the last column of a layer. -/
def DrawPos.endsLayer (p : DrawPos) : Prop := ∃ c, p.layerCol = some c ∧ c.val = 239

/-- The position is in the last box column of an object, or the instruction ends the object at once. -/
def endsObject (i : Instr) (p : DrawPos) : Prop :=
  ∃ o ix, p.objCol = some (o, ix) ∧ (o.bw ≤ ix + 1 ∨ ∃ a, i = .objHidden a)

/-! ### What a step reads -/

/-- The layer whose overflow bit the next step reads, if it reads one. -/
def Seq.overflowBg : Seq → Option (Fin 4)
  | .line _ (.draw _ (.affOverflow n _ _ _ _)) => some n.bg
  | _ => none

/-- The bits of an IO byte that a step of a line may read (R23–R30, R36): none of DISPCNT's bits 3, 4, 5, 7 and 15:13,
BGnCNT's 5:4 and 6, its bit 13 outside that affine layer's overflow selector, the scrolls' 15:9, the latched reference
points' registers, VCOUNT, windows, MOSAIC, KEYINPUT, BLDCNT's 15:14, the coefficients' unused bits, nor any offset R22
names no register at. -/
def ioMask (q : Seq) (off : Nat) : Byte :=
  if off = 0x000 then 0x47
  else if off = 0x001 then 0x1F
  else if off < 0x008 then 0x00
  else if off < 0x010 then
    if off % 2 = 0 then 0x8F
    else if q.overflowBg = some (Fin.ofNat 4 ((off - 0x008) / 2)) then 0xFF else 0xDF
  else if off < 0x020 then if off % 2 = 0 then 0xFF else 0x01
  else if off < 0x040 then if off % 16 < 8 then 0xFF else 0x00
  else if off = 0x050 then 0xFF
  else if off = 0x051 then 0x3F
  else if off = 0x052 ∨ off = 0x053 ∨ off = 0x054 then 0x1F
  else 0x00

/-- The bits of every byte that a step of a line may read: of OAM all but attr0's mosaic bit (R36), of PAL all but each
color's bit 15 (R160). -/
def lineMask (q : Seq) : Region → Nat → Byte
  | .io, off => ioMask q off
  | .vram, _ => 0xFF
  | .oam, off => if off % 8 = 1 then 0xEF else 0xFF
  | .pal, off => if off % 2 = 0 then 0xFF else 0x7F

/-- The bits that RENDER's step reads: the reference points, without bits 15:12 of their H words (R27, R166). -/
def requestMask : Region → Nat → Byte
  | .io, off => if 0x028 ≤ off ∧ off < 0x040 ∧ 8 ≤ off % 16 then (if off % 4 = 3 then 0x0F else 0xFF) else 0x00
  | .vram, _ => 0x00
  | .oam, _ => 0x00
  | .pal, _ => 0x00

/-- Two memories agree on the bits of a mask. -/
def agreeUnder (mask : Region → Nat → Byte) (m m' : Memory) : Prop :=
  ∀ r off, m'.read8 r off &&& mask r off = m.read8 r off &&& mask r off

end Sys2Proof.Machine
end

