-- ==== Sys2Proof/Certificates/Slice0/Obligations.lean ====
section
/-! DEFINITION. The statements for the provers. Each formalises rules of spec/, named in its docstring; where it rests
on a choice of the model, the docstring names the log entry. A register, a Pixel or a sink cell a conclusion does not
name is unchanged because the conclusion gives the whole next state: `s.goto q` is `s` with another sequencer position,
`s.plot c …` is `s` with SETCOLOR applied to column `c`, `s.frameWrite l c …` is `s` with cell `(l, c)` written. -/

open Sys2Proof Sys2Proof.Config Sys2Proof.Machine

/-! ### Encodings -/

/-- Every well-formed instruction, with every operand at every value its word can hold, is decoded from its encoding,
whatever bytes follow (R81, R82, R86, R88, R89, R92, R93, R96, R99). -/
def Obligations.DecodeOfEncodeIsTheInstruction : Prop :=
  ∀ (i : Instr) (rest : List Byte), i.wf = true → decode i.selector (encode i ++ rest) = .ok (i, rest)

/-- A word has one meaning under each selector, and every whole word has one (R99, R100, R101): what the decoder answers
is well formed, is a value of the selector asked for, and encodes to the bytes read; it answers for every word that is
all there, and rejects one that is not, by name. -/
def Obligations.EveryWordHasOneMeaning : Prop :=
  ∀ (sel : Selector) (bytes : List Byte),
    (∀ i rest, decode sel bytes = .ok (i, rest) → i.wf = true ∧ i.selector = sel ∧ encode i ++ rest = bytes) ∧
    (sel.width ≤ bytes.length → ∃ i rest, decode sel bytes = .ok (i, rest)) ∧
    (bytes.length < sel.width → decode sel bytes = .error (.truncated sel))

/-- A few words written out from the layouts of R81, R82, R86, R88, R92, R93 and R96: BG1CNT 0x4D06 (R120), the screen
entry 0xA5C3, the object key 0x81F8:0x40FA, DISPCNT 0x1340 and BLDCNT 0x0241. -/
def Obligations.DecodeOfWordsOfTheSpec : Prop :=
  decode .textSize [0x06, 0x4D] = .ok (.text64x32 ⟨2, 1, 0, false, false, 13, false, 1⟩, []) ∧
  decode .seText [0xC3, 0xA5] = .ok (.seText ⟨0x1C3, true, false, 10⟩, []) ∧
  decode .objSize [0xFA, 0x40, 0xF8, 0x81] =
    .ok (.objSize32x16 ⟨⟨0xFA, 0, 0, false, false, 1⟩, ⟨0x1F8, 0, false, false, 2⟩⟩, []) ∧
  decode .bgMode [0x40, 0x13] = .ok (.mode0 ⟨0, 0, true, false, 3, true, 0⟩, []) ∧
  decode .blendMode [0x41, 0x02] = .ok (.blendAlpha ⟨1, false, false, 1, 2, false, false, 0⟩, []) ∧
  decode .seAff [0x7F] = .ok (.seAff 0x7F, [])

/-! ### The step -/

/-- In a line, with no hook write due, a step is exec of the instruction decoded from the bytes where the sequencer
stands; outside one, a RENDER at the head of the host's program is exec of RENDER with that move taken. That one step
is the exec of one selector is the model's granularity, notes/assumptions/1.md; the rules' finest step is a line
(R222). -/
def Obligations.StepRunsTheDecodedInstruction : Prop :=
  (∀ (s : State) (l : Fin 160) (ph : Phase) (bytes : List Byte) (i : Instr) (rest : List Byte),
    s.seq = .line l ph → s.hookDue l ph = none → s.fetch (fetchPlace ph) = some bytes →
    decode (fetchPlace ph).sel bytes = .ok (i, rest) → step s = exec i s) ∧
  (∀ (s : State) (more : List HostMove), ¬s.inLine → s.host = .render :: more →
    step s = exec .render (s.withHost more))

/-- Which word each position's instruction is decoded from (R22, R34, R80, R125, R172): DISPCNT, BGnCNT, BLDCNT, the
attributes of the OAM entry, the screen entry. -/
def Obligations.StepReadsEachSelectorFromItsWord : Prop :=
  ∀ (s : State) (l : Fin 160) (ph : Phase), s.seq = .line l ph → s.hookDue l ph = none →
    match ph with
    | .select .mode => step s = exec (decodeBgMode (s.mem.read16 .io 0x000)) s
    | .select (.render i) => step s = exec (decodeObjRender (s.mem.read16 .oam (8 * i.val))) s
    | .select (.gfx i) => step s = exec (decodeObjGfx (s.mem.read16 .oam (8 * i.val))) s
    | .select (.size i) =>
      step s = exec (decodeObjSize (s.mem.read16 .oam (8 * i.val)) (s.mem.read16 .oam (8 * i.val + 2))) s
    | .draw _ (.textSize n _) => step s = exec (decodeTextSize (s.mem.read16 .io (0x008 + 2 * n.val))) s
    | .draw _ (.textEntry _ _ addr _ _) =>
      addr + 2 ≤ 0x18000 → step s = exec (.seText (SeText.ofWord (s.mem.read16 .vram addr))) s
    | .draw _ (.textDepth n _ _ _ _ _) => step s = exec (decodeBgDepth (s.mem.read16 .io (0x008 + 2 * n.val))) s
    | .draw _ (.affSize n _) => step s = exec (decodeAffSize (s.mem.read16 .io (0x008 + 2 * n.bg.val))) s
    | .draw _ (.affOverflow n _ _ _ _) =>
      step s = exec (decodeAffOverflow (s.mem.read16 .io (0x008 + 2 * n.bg.val))) s
    | .draw _ (.affEntry _ _ addr _ _ _) => addr + 1 ≤ 0x18000 → step s = exec (.seAff (s.mem.read8 .vram addr)) s
    | .draw _ (.objRender o _) => step s = exec (decodeObjRender (s.mem.read16 .oam (8 * o.idx.val))) s
    | .draw _ (.objMap _ _ _ _ _) => step s = exec (decodeObjMapping (s.mem.read16 .io 0x000)) s
    | .draw _ (.objDepth o _ _ _ _ _) => step s = exec (decodeObjDepth (s.mem.read16 .oam (8 * o.idx.val))) s
    | .compose _ => step s = exec (decodeBlendMode (s.mem.read16 .io 0x050)) s

/-- Every instruction completes where its selector is decoded: exec answers a next state, in which nothing the block
only reads has changed, and the sequencer is on the same line, on the next line's start, done, or in FAULT (R41, R99).
RENDER is stated apart. -/
def Obligations.EveryInstructionCompletesInItsPlace : Prop :=
  ∀ (i : Instr) (s : State) (l : Fin 160) (ph : Phase), s.seq = .line l ph → (fetchPlace ph).sel = i.selector →
    ∃ t, exec i s = .next t ∧ s.sameInputs t ∧ (∀ r off, t.mem.read8 r off = s.mem.read8 r off) ∧
      ((∃ ph', t.seq = .line l ph') ∨ (∃ l' : Fin 160, l'.val = l.val + 1 ∧ t.seq = .line l' (.select .mode)) ∨
        (l.val = 159 ∧ t.seq = .done) ∨ t.seq = .fault)

/-- No rule gives a selector a meaning where the block does not decode it: there exec refuses it, by name (R99; the
refusal is the model's, notes/assumptions/2.md). -/
def Obligations.OutOfPlaceInstructionsAreRefused : Prop :=
  ∀ (i : Instr) (s : State), i ≠ .render → (∀ l ph, s.seq = .line l ph → (fetchPlace ph).sel ≠ i.selector) →
    exec i s = .refused .outOfPlace

/-- In a good state, a line never stops: every step of it answers a next state (R266: "every operation is total"). -/
def Obligations.EveryStepOfALineGoesOn : Prop :=
  ∀ (s : State), s.Inv → s.inLine → s.noHookDue → goesOn (step s)

/-! ### Requests -/

/-- RENDER from IDLE or DONE with no fault (R166, R224, R281): the reference points are latched in every mode, the
object list is emptied, line 0 starts; everything else is unchanged. That the row and the sink stay, which R44 leaves
unspecified here, and the layers, is notes/assumptions/18.md and 15.md. -/
def Obligations.RenderLatchesAndStartsLineZero : Prop :=
  ∀ (s : State), (s.seq = .idle ∨ s.seq = .done) → s.fault = none →
    ∃ t, exec .render s = .next t ∧ t.seq = .line 0 (.select .mode) ∧ t.fault = none ∧ t.objs = [] ∧ t.k = 0 ∧
      t.x2 = (s.mem.read16 .io 0x02A).extractLsb' 0 12 ++ s.mem.read16 .io 0x028 ∧
      t.y2 = (s.mem.read16 .io 0x02E).extractLsb' 0 12 ++ s.mem.read16 .io 0x02C ∧
      t.x3 = (s.mem.read16 .io 0x03A).extractLsb' 0 12 ++ s.mem.read16 .io 0x038 ∧
      t.y3 = (s.mem.read16 .io 0x03E).extractLsb' 0 12 ++ s.mem.read16 .io 0x03C ∧
      t.cfg = s.cfg ∧ t.mem = s.mem ∧ t.row = s.row ∧ t.layers = s.layers ∧ t.sink = s.sink ∧ t.host = s.host ∧
      t.oobReads = s.oobReads

/-- RENDER anywhere else: in FAULT, or with a fault recorded, it has no step (R268); in a line it cannot be issued
(R224; the refusal is the model's, notes/assumptions/8.md). -/
def Obligations.RenderElsewhereDoesNotRun : Prop :=
  ∀ (s : State), (s.seq = .fault → exec .render s = .fault .stuckInFault) ∧
    (¬s.inLine → s.fault.isSome = true → exec .render s = .fault .stuckInFault) ∧
    (s.inLine → exec .render s = .refused .requestInProgress)

/-! ### Modes -/

/-- MODE0 and MODE1 (R219, R220, R221, R191): the row is emptied, the mode's layers are put in ascending (priority,
index) order, and the object scan starts, unless OBJEN is 0: then no object is selected or checked. The enable bits and
mode 1's layers are the spec's decisions D11 and D35. -/
def Obligations.ModesZeroAndOneStartTheLine : Prop :=
  ∀ (s : State) (l : Fin 160) (d : DispCnt) (i : Instr) (lay : List Layer), s.seq = .line l (.select .mode) →
    (i = .mode0 d ∧ lay = [.text 0, .text 1, .text 2, .text 3]) ∨
      (i = .mode1 d ∧ lay = [.text 0, .text 1, .affine .bg2]) →
    ∃ order : List Layer, order.Perm lay ∧
      order.Pairwise (fun a b => (s.bgCnt a.bg).prio.toNat < (s.bgCnt b.bg).prio.toNat ∨
        (s.bgCnt a.bg).prio = (s.bgCnt b.bg).prio ∧ a.bg.val < b.bg.val) ∧
      let u : State := { s with row := Row.empty, objs := [], k := 0, layers := order }
      exec i s = .next (if d.objEn = true then u.goto (.line l (.select (.render 0))) else u.startDraw l 0)

/-- MODE2 (R223): BG2 and BG3, the smaller priority first, a tie by `P_MODE2_TIE`; no object is selected. That the
object list is emptied is notes/assumptions/10.md. That mode 2 selects no object and the tie's parameter are the spec's
decisions D13 and D31. -/
def Obligations.ModeTwoStartsTheLine : Prop :=
  ∀ (s : State) (l : Fin 160) (d : DispCnt), s.seq = .line l (.select .mode) →
    let p2 := (s.bgCnt 2).prio.toNat
    let p3 := (s.bgCnt 3).prio.toNat
    let order : List Layer :=
      if p2 < p3 ∨ p2 = p3 ∧ s.cfg.mode2Tie = .bg2First then [.affine .bg2, .affine .bg3]
      else [.affine .bg3, .affine .bg2]
    exec (.mode2 d) s =
      .next (State.startDraw { s with row := Row.empty, objs := [], k := 0, layers := order } l 0)

/-- MODE3–MODE7 (R262, R260): the row is cleared, then BadMode is recorded and the sequencer goes to FAULT; and a line
whose DISPCNT.BGMODE is 3–7 takes that step at its start, whatever the objects and the line (R267). The parts of the
state no rule reads again are as notes/assumptions/10.md says. The order of the checks is the spec's decision D25, FAULT
its D24. -/
def Obligations.BadModesTakeTheFault : Prop :=
  ∀ (s : State) (l : Fin 160) (d : DispCnt), s.seq = .line l (.select .mode) →
    let t : State := { s with row := Row.empty, objs := [], k := 0, layers := [], fault := some .badMode, seq := .fault }
    (∀ i ∈ [Instr.mode3 d, .mode4 d, .mode5 d, .mode6 d, .mode7 d], exec i s = .next t) ∧
    (s.noHookDue → 3 ≤ ((s.mem.read16 .io 0x000).extractLsb' 0 3).toNat → step s = .next t)
/-! ### The order of the draw steps -/

/-- Which draw step comes next (R221, R223, R227): layers that are disabled are passed over; an object whose priority is
not above the next layer's is drawn before it; with no layer left, the remaining objects; then the line is composed. The
enable bits and the objects drawn last are the spec's decisions D11 and D12. -/
def Obligations.NextDrawStepFollowsThePriorities : Prop :=
  ∀ (s : State) (l : Fin 160) (j : Nat), ∃ (skipped rest : List Layer) (ph : Phase), s.layers = skipped ++ rest ∧
    s.startDraw l j = { s with layers := rest, seq := .line l ph } ∧
    (∀ a ∈ skipped, layerBit s.dispCnt.bgEn a.bg = false ∧
      ∀ o, s.objs[s.k]? = some o → (s.bgCnt a.bg).prio.toNat < o.prio.toNat) ∧
    ((rest = [] ∧ s.objs[s.k]? = none ∧ ph = .compose 0) ∨
      (∃ o, s.objs[s.k]? = some o ∧ ph = .draw j (.objRender o 0) ∧
        ∀ a, rest.head? = some a → o.prio.toNat ≤ (s.bgCnt a.bg).prio.toNat) ∨
      (∃ a, rest.head? = some a ∧ layerBit s.dispCnt.bgEn a.bg = true ∧
        (∀ o, s.objs[s.k]? = some o → (s.bgCnt a.bg).prio.toNat < o.prio.toNat) ∧
        ((∃ n, a = .text n ∧ ph = .draw j (.textSize n 0)) ∨
          (∃ n, a = .affine n ∧ ph = .draw j (.affSize n 0)))))

/-- Where a column, a box column, an OAM entry and a composed cell lead (R41, R127, R174, R190, R196, R200, R222,
R224): to the next of its loop; after the last, to the next draw step, the sorted object list, the next line, or DONE. -/
def Obligations.LoopsAdvanceInOrder : Prop :=
  ∀ (s : State) (l : Fin 160) (j : Nat) (c : Fin 240),
    (∀ c' : Fin 240, c'.val = c.val + 1 →
      (∀ n, s.endTextCol l j n c = s.goto (.line l (.draw j (.textSize n c')))) ∧
      (∀ n, s.endAffCol l j n c = s.goto (.line l (.draw j (.affSize n c')))) ∧
      s.endCompose l c = s.goto (.line l (.compose c'))) ∧
    (c.val = 239 →
      (∀ n, s.endTextCol l j n c = State.startDraw { s with layers := s.layers.tail } l (j + 1)) ∧
      (∀ n, s.endAffCol l j n c = State.startDraw { s with layers := s.layers.tail } l (j + 1)) ∧
      (∀ l' : Fin 160, l'.val = l.val + 1 → s.endCompose l c = s.goto (.line l' (.select .mode))) ∧
      (l.val = 159 → s.endCompose l c = s.goto .done)) ∧
    (∀ (o : ObjDesc) (ix : Nat),
      (ix + 1 < o.bw → s.endObjCol l j o ix = s.goto (.line l (.draw j (.objRender o (ix + 1))))) ∧
      (o.bw ≤ ix + 1 → s.endObjCol l j o ix = State.startDraw { s with k := s.k + 1 } l (j + 1))) ∧
    (∀ i i' : Fin 128, i'.val = i.val + 1 → s.endEntry l i = s.goto (.line l (.select (.render i')))) ∧
    (∀ i : Fin 128, i.val = 127 → s.endEntry l i = s.endSelect l)

/-- The end of the object scan (R190): the list is put in ascending (priority, OAM index) order, no object is lost or
added, the cursor is 0, and drawing starts. The order follows 90_conflicts.md C2 and C8. -/
def Obligations.SelectionSortsByPriorityThenIndex : Prop :=
  ∀ (s : State) (l : Fin 160), ∃ sorted : List ObjDesc, sorted.Perm s.objs ∧
    sorted.Pairwise (fun a b => a.prio.toNat < b.prio.toNat ∨ a.prio = b.prio ∧ a.idx.val ≤ b.idx.val) ∧
    s.endSelect l = State.startDraw { s with objs := sorted, k := 0 } l 0

/-! ### Regular backgrounds -/

/-- TEXT_32x32, TEXT_64x32, TEXT_32x64 and TEXT_64x64 (R123, R124): the map is 256 or 512 pixels a side, and the
column's map pixel is (c + hofs) mod W, (L + vofs) mod H; the entry's address is R125's. The wrap at the map's edge is
the spec's decision D29. -/
def Obligations.TextSizesLocateTheMapPixel : Prop :=
  ∀ (s : State) (l : Fin 160) (j : Nat) (n : Fin 4) (c : Fin 240) (b : BgCnt),
    s.seq = .line l (.draw j (.textSize n c)) →
    let hofs := (s.mem.read16 .io (0x010 + 4 * n.val)).toNat % 512
    let vofs := (s.mem.read16 .io (0x012 + 4 * n.val)).toNat % 512
    let t (size : BitVec 2) (w h : Nat) : State :=
      let x := (c.val + hofs) % w
      let y := (l.val + vofs) % h
      s.goto (.line l (.draw j (.textEntry n c (seAddr b.sbb size (x / 8) (y / 8)) (Fin.ofNat 8 x) (Fin.ofNat 8 y))))
    exec (.text32x32 b) s = .next (t 0 256 256) ∧ exec (.text64x32 b) s = .next (t 1 512 256) ∧
      exec (.text32x64 b) s = .next (t 2 256 512) ∧ exec (.text64x64 b) s = .next (t 3 512 512)

/-- SEADDR (R125): the formula for each size, at most 0x117FE and always even. -/
def Obligations.ScreenEntryAddress : Prop :=
  ∀ (sbb : BitVec 5) (tx ty : Nat),
    let at' (q : Nat) := sbb.toNat * 0x800 + q * 0x800 + (ty % 32 * 32 + tx % 32) * 2
    seAddr sbb 0 tx ty = at' 0 ∧ seAddr sbb 1 tx ty = at' (tx / 32) ∧ seAddr sbb 2 tx ty = at' (ty / 32) ∧
      seAddr sbb 3 tx ty = at' (tx / 32 + 2 * (ty / 32)) ∧
      ∀ size : BitVec 2, tx < (if size = 1 ∨ size = 3 then 64 else 32) → ty < (if size = 2 ∨ size = 3 then 64 else 32) →
        seAddr sbb size tx ty ≤ 0x117FE ∧ seAddr sbb size tx ty % 2 = 0

/-- SE_TEXT (R126, R144): the tile and bank of the entry, and the pixel within the tile after its flips. -/
def Obligations.ScreenEntryGivesTileFlipsAndBank : Prop :=
  ∀ (s : State) (l : Fin 160) (j : Nat) (n : Fin 4) (c : Fin 240) (addr : Nat) (fx fy : Fin 8) (w : Half),
    s.seq = .line l (.draw j (.textEntry n c addr fx fy)) →
    ∃ px py : Fin 8, px.val = (if w.getLsbD 10 = true then 7 - fx.val else fx.val) ∧
      py.val = (if w.getLsbD 11 = true then 7 - fy.val else fy.val) ∧
      exec (.seText (SeText.ofWord w)) s =
        .next (s.goto (.line l (.draw j (.textDepth n c (w.extractLsb' 0 10) (w.extractLsb' 12 4) px py))))

/-- BG_4BPP (R140, R141, R143, R157, R122): the low nibble for an even column, the high one for an odd; index 0 writes
nothing; otherwise entry `bank · 16 + idx` of the background table is offered with the layer's BLDCNT flags. -/
def Obligations.FourBitTexelsReachTheirColumn : Prop :=
  ∀ (s : State) (l : Fin 160) (j : Nat) (n : Fin 4) (c : Fin 240) (tile : BitVec 10) (bank : BitVec 4) (px py : Fin 8)
    (b : BgCnt), s.seq = .line l (.draw j (.textDepth n c tile bank px py)) →
    let byte := (s.mem.read8 .vram (b.cbb.toNat * 0x4000 + tile.toNat * 32 + py.val * 4 + px.val / 2)).toNat
    let idx := if px.val % 2 = 0 then byte % 16 else byte / 16
    let col := colorOf (s.mem.read16 .pal (2 * (bank.toNat * 16 + idx)))
    let bld := s.mem.read16 .io 0x050
    exec (.bg4bpp b) s =
      .next ((if idx = 0 then s else s.plot c col (bld.getLsbD n.val) (bld.getLsbD (8 + n.val))).endTextCol l j n c)

/-- BG_8BPP (R140, R142, R143, R157, R66): the whole byte, the bank ignored; beyond VRAM, the byte is the next draw of
`P_OOB_READ`, whatever it is. The free byte is the spec's decision D6. That it is `oobByte` of the counter, counted up
by each such read, is notes/assumptions/7.md. -/
def Obligations.EightBitTexelsReachTheirColumn : Prop :=
  ∀ (s : State) (l : Fin 160) (j : Nat) (n : Fin 4) (c : Fin 240) (tile : BitVec 10) (bank : BitVec 4) (px py : Fin 8)
    (b : BgCnt), s.seq = .line l (.draw j (.textDepth n c tile bank px py)) →
    let off := b.cbb.toNat * 0x4000 + tile.toNat * 64 + py.val * 8 + px.val
    let bld := s.mem.read16 .io 0x050
    let t (u : State) (idx : Byte) : State :=
      (if idx = 0 then u
        else u.plot c (colorOf (s.mem.read16 .pal (2 * idx.toNat))) (bld.getLsbD n.val) (bld.getLsbD (8 + n.val))).endTextCol
        l j n c
    (off < 0x18000 → exec (.bg8bpp b) s = .next (t s (s.mem.read8 .vram off))) ∧
    (0x18000 ≤ off →
      exec (.bg8bpp b) s = .next (t { s with oobReads := s.oobReads + 1 } (Config.oobByte s.oobReads)))

/-- Which texel reads leave VRAM (R66): no 4bpp background, affine or object read, and an 8bpp background read exactly
when its character base is 3 and its tile at least 768 (R140); screen entries and affine map bytes are
ScreenEntryAddress's and WrapMasksTheTexelIntoTheMap's. The bank's mask and the free byte are the spec's decisions D18
and D6; its counter is notes/assumptions/7.md. -/
def Obligations.OnlyEightBitBackgroundsReadOutsideVram : Prop :=
  ∀ (s : State) (cbb : BitVec 2) (px py : Fin 8),
    (∀ tile, (s.bgTexel4 cbb tile px py).2 = s) ∧
    (∀ tile : BitVec 8, (s.affTexel (cbb.toNat * 0x4000) tile px py).2 = s) ∧
    (∀ tn x y, (s.objTexel4 tn x y).2 = s ∧ (s.objTexel8 tn x y).2 = s) ∧
    (∀ tile : BitVec 10, ¬(cbb = 3 ∧ 768 ≤ tile.toNat) → (s.bgTexel8 cbb tile px py).2 = s) ∧
    (∀ tile : BitVec 10, cbb = 3 ∧ 768 ≤ tile.toNat →
      s.bgTexel8 cbb tile px py = (Config.oobByte s.oobReads, { s with oobReads := s.oobReads + 1 }))

/-! ### Affine backgrounds -/

/-- AFF_128 … AFF_1024 (R167, R168, R169): the texel is the floor of the reference plus L·pb and pa·c over 256, and the
sums fit in 32 signed bits. The linear reference and the floor are the spec's decisions D8 and D9. -/
def Obligations.AffineSizesLocateTheTexel : Prop :=
  ∀ (s : State) (l : Fin 160) (j : Nat) (n : AffLayer) (c : Fin 240) (b : BgCnt),
    s.seq = .line l (.draw j (.affSize n c)) →
    let co (k : Nat) : Int := (s.mem.read16 .io ((match n with | .bg2 => 0x020 | .bg3 => 0x030) + k)).toInt
    let x := (match n with | .bg2 => s.x2.toInt | .bg3 => s.x3.toInt) + l.val * co 2 + co 0 * c.val
    let y := (match n with | .bg2 => s.y2.toInt | .bg3 => s.y3.toInt) + l.val * co 6 + co 4 * c.val
    let t (size : Nat) : State := s.goto (.line l (.draw j (.affOverflow n c size (x / 256) (y / 256))))
    exec (.aff128 b) s = .next (t 128) ∧ exec (.aff256 b) s = .next (t 256) ∧ exec (.aff512 b) s = .next (t 512) ∧
      exec (.aff1024 b) s = .next (t 1024) ∧ -(2 ^ 31) ≤ x ∧ x < 2 ^ 31 ∧ -(2 ^ 31) ≤ y ∧ y < 2 ^ 31

/-- AFF_WRAP (R170, R172): both coordinates are reduced into the map, −1 to S − 1, and the map byte looked up is in
VRAM. -/
def Obligations.WrapMasksTheTexelIntoTheMap : Prop :=
  ∀ (s : State) (l : Fin 160) (j : Nat) (n : AffLayer) (c : Fin 240) (size : Nat) (tx ty : Int) (b : BgCnt),
    s.seq = .line l (.draw j (.affOverflow n c size tx ty)) → size ∈ affSizes →
    ∃ ux uy : Nat, ux < size ∧ uy < size ∧ (∃ a : Int, tx = a * size + ux) ∧ (∃ a : Int, ty = a * size + uy) ∧
      (tx = -1 → ux = size - 1) ∧ b.sbb.toNat * 0x800 + uy / 8 * (size / 8) + ux / 8 ≤ 0x137FF ∧
      exec (.affWrap b) s = .next (s.goto (.line l (.draw j
        (.affEntry n c (b.sbb.toNat * 0x800 + uy / 8 * (size / 8) + ux / 8) (b.cbb.toNat * 0x4000)
          (Fin.ofNat 8 ux) (Fin.ofNat 8 uy)))))

/-- AFF_CLIP (R171, R172): a texel outside the map skips the column, reading and writing nothing; one inside is looked
up. -/
def Obligations.ClipSkipsTexelsOutsideTheMap : Prop :=
  ∀ (s : State) (l : Fin 160) (j : Nat) (n : AffLayer) (c : Fin 240) (size : Nat) (tx ty : Int) (b : BgCnt),
    s.seq = .line l (.draw j (.affOverflow n c size tx ty)) →
    (tx < 0 ∨ (size : Int) ≤ tx ∨ ty < 0 ∨ (size : Int) ≤ ty → exec (.affClip b) s = .next (s.endAffCol l j n c)) ∧
    (∀ ux uy : Nat, tx = ux → ty = uy → ux < size → uy < size →
      exec (.affClip b) s = .next (s.goto (.line l (.draw j
        (.affEntry n c (b.sbb.toNat * 0x800 + uy / 8 * (size / 8) + ux / 8) (b.cbb.toNat * 0x4000)
          (Fin.ofNat 8 ux) (Fin.ofNat 8 uy))))))

/-- SE_AFF (R172, R173, R143): the map byte is the tile, its texel is always 8bpp, and entry `idx` of the background
table is offered with the layer's flags. From a character base the read is always in VRAM; a base no line reaches
would make it a draw of `P_OOB_READ` (R66). That draw's byte and counter are notes/assumptions/7.md. -/
def Obligations.AffineTexelsReachTheirColumn : Prop :=
  ∀ (s : State) (l : Fin 160) (j : Nat) (n : AffLayer) (c : Fin 240) (addr base : Nat) (fx fy : Fin 8)
    (tile : BitVec 8), s.seq = .line l (.draw j (.affEntry n c addr base fx fy)) →
    let off := base + tile.toNat * 64 + fy.val * 8 + fx.val
    let bld := s.mem.read16 .io 0x050
    let bit := match n with | .bg2 => 2 | .bg3 => 3
    let t (u : State) (idx : Byte) : State :=
      (if idx = 0 then u
        else u.plot c (colorOf (s.mem.read16 .pal (2 * idx.toNat))) (bld.getLsbD bit) (bld.getLsbD (8 + bit))).endAffCol
        l j n c
    (base ≤ 0xC000 → off < 0x18000) ∧
    (off < 0x18000 → exec (.seAff tile) s = .next (t s (s.mem.read8 .vram off))) ∧
    (0x18000 ≤ off →
      exec (.seAff tile) s = .next (t { s with oobReads := s.oobReads + 1 } (Config.oobByte s.oobReads)))

/-! ### Objects -/

/-- OBJ_DECODE (R185, R98): every field of a descriptor, from the bits of its three attribute words. The wraps of X and
Y are the spec's decisions D16 and D36. -/
def Obligations.ObjectDecodeReadsEveryField : Prop :=
  ∀ (i : Fin 128) (w0 w1 w2 : Half) (w h : Nat),
    let o := objDecode i ⟨Attr0.ofWord w0, Attr1.ofWord w1⟩ (Attr2.ofWord w2) w h
    o.idx = i ∧ o.y = (if w0.toNat % 256 > 160 then (w0.toNat % 256 : Int) - 256 else w0.toNat % 256) ∧
      o.rm = w0.extractLsb' 8 2 ∧ o.gfx = w0.extractLsb' 10 2 ∧ o.cm = w0.getLsbD 13 ∧ o.shape = w0.extractLsb' 14 2 ∧
      o.x = (w1.extractLsb' 0 9).toInt ∧ o.size = w1.extractLsb' 14 2 ∧ o.hf = w1.getLsbD 12 ∧ o.vf = w1.getLsbD 13 ∧
      o.mat = w1.extractLsb' 9 5 ∧ o.tile = w2.extractLsb' 0 10 ∧ o.prio = w2.extractLsb' 10 2 ∧
      o.pb = w2.extractLsb' 12 4 ∧ o.w = w ∧ o.h = h ∧ -256 ≤ o.x ∧ o.x ≤ 255

/-- attr0.RM in the object scan (R186, R190): a hidden entry is skipped, before any check; any other goes on to its
graphics mode. -/
def Obligations.HiddenEntriesAreSkipped : Prop :=
  ∀ (s : State) (l : Fin 160) (i : Fin 128) (a : Attr0), s.seq = .line l (.select (.render i)) →
    exec (.objHidden a) s = .next (s.endEntry l i) ∧
      ∀ x ∈ [Instr.objRegular a, .objAffine a, .objAffineDouble a],
        exec x s = .next (s.goto (.line l (.select (.gfx i))))

/-- attr0.GFX in the object scan (R187, R188, R202): a window entry is skipped, a prohibited one is fatal, and a
semi-transparent one is taken exactly as a normal one. The prohibited code, semi-transparency and the order of the
checks are the spec's decisions D15, D14 and D37. -/
def Obligations.GraphicsModesSelectSkipOrFault : Prop :=
  ∀ (s : State) (l : Fin 160) (i : Fin 128) (a : Attr0), s.seq = .line l (.select (.gfx i)) →
    exec (.objGfxNormal a) s = .next (s.goto (.line l (.select (.size i)))) ∧
    exec (.objGfxSemitrans a) s = .next (s.goto (.line l (.select (.size i)))) ∧
    exec (.objGfxWindow a) s = .next (s.endEntry l i) ∧
    exec (.objGfxProhibited a) s = .next { s with fault := some .badObjMode, seq := .fault }

/-- (SHAPE, SIZE) in the object scan (R96, R188, R189, R190): each of the twelve rows has its size; the entry is put on
the list exactly when the line is inside its box, twice as high for a double-size object; shape 3 is fatal. That shape 3
is fatal, on every line, is the spec's decisions D15 and D37. -/
def Obligations.SizesTestTheLineAndShapeThreeFaults : Prop :=
  ∀ (s : State) (l : Fin 160) (i : Fin 128) (k : ObjKey), s.seq = .line l (.select (.size i)) →
    (∀ e ∈ [(Instr.objSize8x8 k, 8, 8), (.objSize16x16 k, 16, 16), (.objSize32x32 k, 32, 32),
        (.objSize64x64 k, 64, 64), (.objSize16x8 k, 16, 8), (.objSize32x8 k, 32, 8), (.objSize32x16 k, 32, 16),
        (.objSize64x32 k, 64, 32), (.objSize8x16 k, 8, 16), (.objSize8x32 k, 8, 32), (.objSize16x32 k, 16, 32),
        (.objSize32x64 k, 32, 64)],
      let o := objDecode i k (Attr2.ofWord (s.mem.read16 .oam (8 * i.val + 4))) e.2.1 e.2.2
      let bh := if k.a0.rm = 3 then 2 * e.2.2 else e.2.2
      exec e.1 s = .next (State.endEntry
        (if o.y ≤ (l.val : Int) ∧ (l.val : Int) < o.y + (bh : Int) then { s with objs := s.objs ++ [o] } else s) l i)) ∧
    exec (.objShapeProhibited k) s = .next { s with fault := some .badObjShape, seq := .fault }

/-- The checks of one OAM entry, in their order (R188, R265, R267): for an entry that is neither hidden nor a window,
GFX 3 is BadObjMode whatever its shape, and otherwise shape 3 is BadObjShape, on every line, on screen or not. The
codes and the order are the spec's decisions D15, D25 and D37. The counts of steps are the model's granularity,
notes/assumptions/1.md. -/
def Obligations.EntryChecksFaultInOrder : Prop :=
  ∀ (s : State) (l : Fin 160) (i : Fin 128), s.seq = .line l (.select (.render i)) →
    let a0 := s.mem.read16 .oam (8 * i.val)
    (a0.extractLsb' 8 2 ≠ 2 → a0.extractLsb' 10 2 = 3 → reaches 2 s { s with fault := some .badObjMode, seq := .fault }) ∧
    (a0.extractLsb' 8 2 ≠ 2 → a0.extractLsb' 10 2 ≠ 2 → a0.extractLsb' 10 2 ≠ 3 → a0.extractLsb' 14 2 = 3 →
      reaches 3 s { s with fault := some .badObjShape, seq := .fault }) ∧
    (a0.extractLsb' 8 2 = 2 → reaches 1 s (s.endEntry l i)) ∧
    (a0.extractLsb' 8 2 ≠ 2 → a0.extractLsb' 10 2 = 2 → reaches 2 s (s.endEntry l i))

/-- OBJ_REGULAR where an object is drawn (R196, R144, R146): a box column on screen shows source column `ix`, mirrored
over the whole object by the flips; one off screen is skipped. -/
def Obligations.RegularObjectsFlipOverTheWholeObject : Prop :=
  ∀ (s : State) (l : Fin 160) (j : Nat) (o : ObjDesc) (ix : Nat) (a : Attr0),
    s.seq = .line l (.draw j (.objRender o ix)) →
    let r := ((l.val : Int) - o.y).toNat
    (∀ c : Fin 240, o.x + (ix : Int) = (c.val : Int) →
      exec (.objRegular a) s = .next (s.goto (.line l (.draw j (.objMap o ix c
        (if o.hf = true then o.w - 1 - ix else ix) (if o.vf = true then o.h - 1 - r else r)))))) ∧
    (o.x + (ix : Int) < 0 ∨ 240 ≤ o.x + (ix : Int) → exec (.objRegular a) s = .next (s.endObjCol l j o ix))

/-- OBJ_AFFINE and OBJ_AFFINE_DOUBLE where an object is drawn (R197, R198, R199, R200): the box is the true size or
twice it, the texel is the inverse-affine one about the two centres, and a texel outside the true size, or a column off
screen, is left unset. OBJ_HIDDEN there, which no line reaches (R192), ends the object (notes/assumptions/15.md). The
centring and rounding are the spec's decision D17, which no source confirms at boundary pixels. -/
def Obligations.AffineObjectsLookUpTheInverseTexel : Prop :=
  ∀ (s : State) (l : Fin 160) (j : Nat) (o : ObjDesc) (ix : Nat) (a : Attr0),
    s.seq = .line l (.draw j (.objRender o ix)) →
    (∀ e ∈ [(Instr.objAffine a, o.w, o.h), (.objAffineDouble a, 2 * o.w, 2 * o.h)],
      let co (q : Nat) : Int := (s.mem.read16 .oam (8 * (4 * o.mat.toNat + q) + 6)).toInt
      let dx : Int := (ix : Int) - ((e.2.1 / 2 : Nat) : Int)
      let dy : Int := (l.val : Int) - o.y - ((e.2.2 / 2 : Nat) : Int)
      let tx := (co 0 * dx + co 1 * dy) / 256 + ((o.w / 2 : Nat) : Int)
      let ty := (co 2 * dx + co 3 * dy) / 256 + ((o.h / 2 : Nat) : Int)
      (∀ (c : Fin 240) (ux uy : Nat), o.x + (ix : Int) = (c.val : Int) → tx = ux → ty = uy → ux < o.w → uy < o.h →
        exec e.1 s = .next (s.goto (.line l (.draw j (.objMap o ix c ux uy))))) ∧
      (o.x + (ix : Int) < 0 ∨ 240 ≤ o.x + (ix : Int) ∨ tx < 0 ∨ (o.w : Int) ≤ tx ∨ ty < 0 ∨ (o.h : Int) ≤ ty →
        exec e.1 s = .next (s.endObjCol l j o ix))) ∧
    exec (.objHidden a) s = .next (State.startDraw { s with k := s.k + 1 } l (j + 1))

/-- With the identity matrix, a double-size object's texel is inside the true size exactly on the centre of the box
(R199): box columns and rows w/2 … 3w/2 − 1. The centring is the spec's decision D17. -/
def Obligations.IdentityDoubleSizeIsCentred : Prop :=
  ∀ (o : ObjDesc) (l : Fin 160) (ix iy : Nat), o.w % 2 = 0 → o.h % 2 = 0 → (l.val : Int) = o.y + (iy : Int) →
    let t := affineSource o ⟨0x100, 0, 0, 0x100⟩ (2 * o.w) (2 * o.h) l ix
    (insideBy o.w t.1 = true ↔ o.w / 2 ≤ ix ∧ ix < o.w / 2 + o.w) ∧
      (insideBy o.h t.2 = true ↔ o.h / 2 ≤ iy ∧ iy < o.h / 2 + o.h)

/-- OBJMAP_1D and OBJMAP_2D (R193): the tile number, consecutive or in a sheet 32 tiles wide, an 8bpp tile counting
twice. The stride is the spec's decision D18. -/
def Obligations.ObjectTileNumbers : Prop :=
  ∀ (s : State) (l : Fin 160) (j : Nat) (o : ObjDesc) (ix : Nat) (c : Fin 240) (px py : Nat) (d : DispCnt),
    s.seq = .line l (.draw j (.objMap o ix c px py)) →
    let k := if o.cm = true then 2 else 1
    exec (.objMap1D d) s = .next (s.goto (.line l (.draw j
      (.objDepth o ix c (o.tile.toNat + py / 8 * (o.w / 8) * k + px / 8 * k) px py)))) ∧
    exec (.objMap2D d) s = .next (s.goto (.line l (.draw j
      (.objDepth o ix c (o.tile.toNat + py / 8 * 32 + px / 8 * k) px py))))

/-- OBJ_4BPP and OBJ_8BPP (R194, R195, R143, R158, R201): the texel is read in the object bank, wrapped inside it; the
object table's entry is offered with the objects' flags. The mask and the objects' flags are the spec's decisions D18
and D14. -/
def Obligations.ObjectTexelsReachTheirColumn : Prop :=
  ∀ (s : State) (l : Fin 160) (j : Nat) (o : ObjDesc) (ix : Nat) (c : Fin 240) (tn px py : Nat) (a : Attr0),
    s.seq = .line l (.draw j (.objDepth o ix c tn px py)) →
    let bld := s.mem.read16 .io 0x050
    let byte := (s.mem.read8 .vram (0x10000 + ((tn * 32 + py % 8 * 4 + px % 8 / 2) &&& 0x7FFF))).toNat
    let idx4 := if px % 8 % 2 = 0 then byte % 16 else byte / 16
    let idx8 := (s.mem.read8 .vram (0x10000 + ((tn * 32 + py % 8 * 8 + px % 8) &&& 0x7FFF))).toNat
    let t (idx entry : Nat) : State :=
      (if idx = 0 then s
        else s.plot c (colorOf (s.mem.read16 .pal (0x200 + 2 * entry))) (bld.getLsbD 4) (bld.getLsbD 12)).endObjCol
        l j o ix
    exec (.obj4bpp a) s = .next (t idx4 (o.pb.toNat * 16 + idx4)) ∧ exec (.obj8bpp a) s = .next (t idx8 idx8)

/-! ### The Pixel -/

/-- SETCOLOR (R216): the first color takes slot 0 with its top flag; a second takes slot 1 only when that flag is set,
and leaves its color there only when its own bottom flag is; nothing else changes the Pixel. -/
def Obligations.SetColorFillsTheTwoSlots : Prop :=
  ∀ (p : Pixel) (col : Color15) (top bot : Bool),
    (p.n = 0 → setColor p col top bot = { p with c0 := col, t0 := top, n := 1 }) ∧
    (p.n = 1 → p.t0 = true → setColor p col top bot = { p with n := 2, c1 := if bot = true then some col else p.c1 }) ∧
    (p.n = 1 → p.t0 = false → setColor p col top bot = p) ∧ (p.n = 2 → setColor p col top bot = p)

/-- The fill-once invariant (R217, R218): a filled Pixel ignores every later sequence of SETCOLOR calls; once one color
is in, no sequence changes slot 0; once two are, none changes slot 1; and two calls always fill the Pixel. -/
def Obligations.FilledPixelsNeverChange : Prop :=
  ∀ (p : Pixel) (ws : List (Color15 × Bool × Bool)),
    (filled p = true ↔ p.n = 2 ∨ p.n = 1 ∧ p.t0 = false) ∧
    (filled p = true → setColors p ws = p) ∧
    (p.n ≠ 0 → (setColors p ws).c0 = p.c0 ∧ (setColors p ws).t0 = p.t0) ∧
    (p.n = 2 → (setColors p ws).c1 = p.c1) ∧
    (2 ≤ ws.length → filled (setColors p ws) = true)

/-! ### Palettes and blending -/

/-- PALETTE, OBJ_PALETTE and BACKDROP (R157, R158, R159, R160): entry `pb · 16 + idx` in 4bpp, entry `idx` in 8bpp, of
the table's half; the backdrop is background entry 0; bit 15 is dropped; and every entry is inside PAL. A color is its
three channels: red the low five bits, green the next, blue the top (R156). Bit 15 and the channel order are the spec's
decisions D21 and D22. -/
def Obligations.PaletteLookupsAndChannels : Prop :=
  (∀ (s : State) (pb : BitVec 4) (idx : Byte),
    (idx.toNat < 16 →
      (s.palette4 .bg pb idx).toNat = (s.mem.read16 .pal (2 * (pb.toNat * 16 + idx.toNat))).toNat % 0x8000 ∧
      (s.palette4 .obj pb idx).toNat = (s.mem.read16 .pal (0x200 + 2 * (pb.toNat * 16 + idx.toNat))).toNat % 0x8000 ∧
      0x200 + 2 * (pb.toNat * 16 + idx.toNat) ≤ 0x3FE) ∧
    (s.palette8 .bg idx).toNat = (s.mem.read16 .pal (2 * idx.toNat)).toNat % 0x8000 ∧
    (s.palette8 .obj idx).toNat = (s.mem.read16 .pal (0x200 + 2 * idx.toNat)).toNat % 0x8000 ∧
    0x200 + 2 * idx.toNat ≤ 0x3FE ∧ s.backdrop.toNat = (s.mem.read16 .pal 0).toNat % 0x8000) ∧
  (∀ c : Color15, (red c).toNat = c.toNat % 32 ∧ (green c).toNat = c.toNat / 32 % 32 ∧
    (blue c).toNat = c.toNat / 1024 ∧ pack (red c) (green c) (blue c) = c) ∧
  (∀ r g b : BitVec 5, (pack r g b).toNat = b.toNat * 1024 + g.toNat * 32 + r.toNat)

/-- COEFFS (R241): the three coefficients, clamped to 16. The clamp is the spec's decision D19. -/
def Obligations.CoefficientsAreClampedToOne : Prop :=
  ∀ s : State, s.eva = min ((s.mem.read16 .io 0x052).toNat % 32) 16 ∧
    s.evb = min ((s.mem.read16 .io 0x052).toNat / 256 % 32) 16 ∧ s.evy = min ((s.mem.read16 .io 0x054).toNat % 32) 16

/-- BLEND (R242, R247): each channel is the floored, saturated sum of its own two, never above 31 and never carried
into another; before saturation it is at most 62, and in a fade it never needs saturating. -/
def Obligations.BlendSaturatesEachChannel : Prop :=
  ∀ (a b : Color15) (ca cb : Nat), ca ≤ 16 → cb ≤ 16 →
    ∀ ch ∈ [red, green, blue],
      (ch (blend a b ca cb)).toNat = min (((ch a).toNat * ca + (ch b).toNat * cb) / 16) 31 ∧
      ((ch a).toNat * ca + (ch b).toNat * cb) / 16 ≤ 62 ∧
      (ca + cb = 16 → (ch (blend a b ca cb)).toNat = ((ch a).toNat * ca + (ch b).toNat * cb) / 16)

/-- BLEND_OFF (R243, R248): the column's cell is the topmost written color, or the backdrop. BLEND_ALPHA (R244, R248):
two layers with slot 1's color kept are blended; one top-eligible layer is blended with a bottom-eligible backdrop;
otherwise the topmost color, or the backdrop, unblended. -/
def Obligations.BlendOffAndAlphaComposeTheColumn : Prop :=
  ∀ (s : State) (l : Fin 160) (c : Fin 240) (b : BldCnt), s.seq = .line l (.compose c) →
    let p := s.pixel c
    let t (col : Color15) : State := (s.frameWrite l c col).endCompose l c
    exec (.blendOff b) s = .next (t (if p.n = 0 then s.backdrop else p.c0)) ∧
    (∀ c1, p.n = 2 → p.c1 = some c1 → exec (.blendAlpha b) s = .next (t (blend p.c0 c1 s.eva s.evb))) ∧
    (p.n = 2 → p.c1 = none → exec (.blendAlpha b) s = .next (t p.c0)) ∧
    (p.n = 1 → p.t0 = true → b.bottomBackdrop = true →
      exec (.blendAlpha b) s = .next (t (blend p.c0 s.backdrop s.eva s.evb))) ∧
    (p.n = 1 → p.t0 = false ∨ b.bottomBackdrop = false → exec (.blendAlpha b) s = .next (t p.c0)) ∧
    (p.n = 0 → exec (.blendAlpha b) s = .next (t s.backdrop))

/-- BLEND_WHITE and BLEND_BLACK (R245, R246, R248): the topmost color is faded whatever its flag, the backdrop only when
it is top-eligible; towards black, a channel loses the fraction rounded up. The fade's form is the spec's decision D20;
90_conflicts.md C7 leaves the flag out. -/
def Obligations.FadesTowardsWhiteAndBlack : Prop :=
  ∀ (s : State) (l : Fin 160) (c : Fin 240) (b : BldCnt), s.seq = .line l (.compose c) →
    let p := s.pixel c
    let t (col : Color15) : State := (s.frameWrite l c col).endCompose l c
    (∀ e ∈ [(Instr.blendWhite b, (0x7FFF : Color15)), (.blendBlack b, 0x0000)],
      (p.n ≠ 0 → exec e.1 s = .next (t (blend p.c0 e.2 (16 - s.evy) s.evy))) ∧
      (p.n = 0 → b.topBackdrop = true → exec e.1 s = .next (t (blend s.backdrop e.2 (16 - s.evy) s.evy))) ∧
      (p.n = 0 → b.topBackdrop = false → exec e.1 s = .next (t s.backdrop))) ∧
    (∀ ch ∈ [red, green, blue], ∀ col : Color15,
      (ch (blend col 0x7FFF (16 - s.evy) s.evy)).toNat = ((ch col).toNat * (16 - s.evy) + 31 * s.evy) / 16 ∧
      (ch (blend col 0x0000 (16 - s.evy) s.evy)).toNat = (ch col).toNat - ((ch col).toNat * s.evy + 15) / 16)

/-! ### Frames -/

/-- What drawing leaves alone: an instruction decoded while a layer or an object is drawn changes at most the Pixel of
the column it stands on; the fault record, the object list and the sink are unchanged; the cursor moves, by one, only
at the last box column of an object (or at OBJ_HIDDEN, notes/assumptions/15.md); layers are only dropped, and only
there or at column 239 of a layer (R37, R38, R127, R174, R196, R200, R221). -/
def Obligations.DrawingChangesOnlyItsColumn : Prop :=
  ∀ (i : Instr) (s t : State) (l : Fin 160) (j : Nat) (p : DrawPos), s.seq = .line l (.draw j p) →
    exec i s = .next t →
    t.fault = s.fault ∧ t.objs = s.objs ∧ t.sink = s.sink ∧
    (t.k = s.k ∨ t.k = s.k + 1 ∧ endsObject i p) ∧
    (t.layers = s.layers ∨ t.layers <:+ s.layers ∧ (p.endsLayer ∨ endsObject i p)) ∧
    (∀ d : Fin 240, t.pixel d ≠ s.pixel d →
      match p with
      | .textDepth _ c _ _ _ _ => d = c
      | .affEntry _ c _ _ _ _ => d = c
      | .objDepth _ _ c _ _ _ => d = c
      | _ => False) ∧
    (p.objCol.isSome = true → t.oobReads = s.oobReads)

/-- What selecting leaves alone: at the mode dispatch and in the object scan no sink cell and no VRAM draw is touched;
in the scan the row is unchanged too; the fault record changes only by a raised reason (R190, R219, R268). That the row
is emptied before BadMode is R262's order. -/
def Obligations.SelectingDrawsNothing : Prop :=
  ∀ (i : Instr) (s t : State) (l : Fin 160) (p : ScanPos), s.seq = .line l (.select p) → exec i s = .next t →
    t.sink = s.sink ∧ t.oobReads = s.oobReads ∧ (p ≠ .mode → t.row = s.row) ∧ (p = .mode → t.row = Row.empty) ∧
      (t.seq ≠ .fault → t.fault = s.fault)

/-- The sink is written only when a column is composed, at that column's cell, whatever it held; composing leaves the
row, the object list, the cursor, the layers and the fault record alone (R42, R225, R240, R248, R277; that the row
stays is notes/assumptions/18.md). No other step changes the sink but the host's handing over of one (R284), outside a
request. -/
def Obligations.ComposingWritesOneCell : Prop :=
  (∀ (i : Instr) (s t : State) (l : Fin 160) (c : Fin 240), s.seq = .line l (.compose c) → exec i s = .next t →
    (∀ k : Sink, ∃ u, exec i (s.withSink k) = .next u ∧ u.cell l c = t.cell l c) ∧
      (∀ l' c', ¬(l' = l ∧ c' = c) → t.cell l' c' = s.cell l' c') ∧
      t.row = s.row ∧ t.objs = s.objs ∧ t.k = s.k ∧ t.layers = s.layers ∧ t.fault = s.fault ∧
      t.oobReads = s.oobReads) ∧
  (∀ s t : State, step s = .next t → t.sink ≠ s.sink →
    (∃ l c, s.seq = .line l (.compose c)) ∨
      (¬s.inLine ∧ ∃ rest, s.host = .sink t.sink :: rest ∧ t = (s.withHost rest).withSink t.sink))

/-- The host's moves outside a request. A write is a step: its bytes read back, low byte first (R31, R62, R102, R271),
every other byte of every region reads as before (R61), and nothing else changes. Handing a sink over changes the sink
alone (R42, R284). A write at an offset the region does not have, a 16-bit write at an odd offset and a hook's write
stop, each by its own name, and a block that is idle or done with no move waits: these are notes/assumptions/16.md,
11.md and 8.md. The byte order and the host's rights are the spec's decisions D4 and D28. -/
def Obligations.HostWritesStoreTheirBytes : Prop :=
  ∀ (s : State) (more : List HostMove), s.mem.wf = true → ¬s.inLine →
    (∀ r off (v : Byte), off < r.size → s.host = .write (.w8 r off v) :: more →
      ∃ m : Memory, step s = .next { s with mem := m, host := more } ∧ m.wf = true ∧ m.read8 r off = v ∧
        ∀ r' a, ¬(r' = r ∧ a = off) → m.read8 r' a = s.mem.read8 r' a) ∧
    (∀ r off (v : Half), off < r.size → off % 2 = 0 → s.host = .write (.w16 r off v) :: more →
      ∃ m : Memory, step s = .next { s with mem := m, host := more } ∧ m.wf = true ∧ m.read16 r off = v ∧
        m.read8 r off = v.extractLsb' 0 8 ∧ m.read8 r (off + 1) = v.extractLsb' 8 8 ∧
        ∀ r' a, ¬(r' = r ∧ (a = off ∨ a = off + 1)) → m.read8 r' a = s.mem.read8 r' a) ∧
    (∀ k, s.host = .sink k :: more → step s = .next { s with sink := k, host := more }) ∧
    (∀ r off (v : Byte), r.size ≤ off → s.host = .write (.w8 r off v) :: more →
      step s = .fault (.noSuchAddress r off)) ∧
    (∀ r off (v : Half), r.size ≤ off → off % 2 = 0 → s.host = .write (.w16 r off v) :: more →
      step s = .fault (.noSuchAddress r off)) ∧
    (∀ r off (v : Half), off % 2 = 1 → s.host = .write (.w16 r off v) :: more → step s = .refused .misalignedWrite) ∧
    (∀ l w, s.host = .hook l w :: more → step s = .refused .hookOutOfPlace) ∧
    (s.host = [] → s.seq = .idle ∨ s.seq = .done → step s = .next s)

/-- In a line the regions and the host's program change only by a write of the host's line hook: when `P_LINE_HOOK` is
true, at the start of a line after line 0, by the move at the head of the program that names the boundary before it;
that step is the write and nothing else (R39, R68, R69, R70, R286). Conversely such a write, of 8 or 16 bits, is made
before anything of its line is drawn. The latched reference points and the parameters never change in a line. The hook
is the spec's decision D7; how its moves are queued is notes/assumptions/11.md, that an illegal one stops is 16.md. -/
def Obligations.OnlyTheLineHookWritesInsideAFrame : Prop :=
  (∀ (s t : State), s.inLine → step s = .next t →
    t.cfg = s.cfg ∧ t.x2 = s.x2 ∧ t.y2 = s.y2 ∧ t.x3 = s.x3 ∧ t.y3 = s.y3 ∧
    ((t.mem = s.mem ∧ t.host = s.host) ∨
      ∃ (l : Fin 160) (l' : Nat) (w : HostWrite) (rest : List HostMove), s.cfg.lineHook = true ∧ l' + 1 = l.val ∧
        s.seq = .line l (.select .mode) ∧ s.host = .hook l' w :: rest ∧ w.legal ∧
        t = { s with mem := w.store s.mem, host := rest })) ∧
  (∀ (s : State) (l : Fin 160) (l' : Nat) (r : Region) (off : Nat) (more : List HostMove),
    s.cfg.lineHook = true → s.seq = .line l (.select .mode) → l' + 1 = l.val →
    (∀ v : Byte, s.host = .hook l' (.w8 r off v) :: more →
      step s = if off < r.size then .next { s with mem := s.mem.write8 r off v, host := more }
        else .fault (.noSuchAddress r off)) ∧
    (∀ v : Half, s.host = .hook l' (.w16 r off v) :: more →
      step s = if off % 2 = 1 then .refused .misalignedWrite
        else if off < r.size then .next { s with mem := s.mem.write16 r off v, host := more }
        else .fault (.noSuchAddress r off)))

/-- The invariant of a good state is kept by every step, from every state that meets it: memory canonical, Pixels legal,
the fault recorded exactly in FAULT, the cursor on the list, the position consistent. -/
def Obligations.EveryStepKeepsTheInvariant : Prop := ∀ s t : State, s.Inv → step s = .next t → t.Inv

/-- A launch (R44, R45, R280), whatever the parameters, the regions' contents, the sink's and the host's program:
idle, no fault, an empty object list with its cursor at 0, the free inputs as given, and a good state. State.reset is
the launch with nothing listed and a blank sink. The reset values are the spec's decision D23; those R44 leaves
unspecified are notes/assumptions/5.md and 6.md. -/
def Obligations.LaunchStatesAreGood : Prop :=
  (∀ (cfg : Params) (mem : Memory) (sink : Sink) (host : List HostMove), mem.wf = true →
    let s := State.launch cfg mem sink host
    s.Inv ∧ s.seq = .idle ∧ s.fault = none ∧ s.objs = [] ∧ s.k = 0 ∧ s.cfg = cfg ∧ s.mem = mem ∧ s.sink = sink ∧
      s.host = host) ∧
  State.reset.Inv ∧ State.reset = State.launch Params.default ⟨[], [], [], []⟩ Sink.blank []

/-- The sequencer only goes forward (R41): from a line to the same line, the start of the next, DONE after line 159, or
FAULT. -/
def Obligations.LinesAscendAndNeverGoBack : Prop :=
  ∀ (s t : State) (l : Fin 160) (ph : Phase), s.seq = .line l ph → step s = .next t →
    (∃ ph', t.seq = .line l ph') ∨ (∃ l' : Fin 160, l'.val = l.val + 1 ∧ t.seq = .line l' (.select .mode)) ∨
      (l.val = 159 ∧ t.seq = .done) ∨ t.seq = .fault

/-- FAULT is terminal (R40, R268, R269): no step clears or changes a recorded fault or leaves FAULT; there the host
may still write the regions and hand a sink over (R271, R284), a request has no step, and with no such move the block
is stuck. The premise of the first clause is the invariant's clause that a fault is recorded exactly in FAULT. FAULT
is the spec's decisions D24 and D38; that a stuck block is a fault of the step, and that it keeps the row, the list
and the sink, is notes/assumptions/8.md. -/
def Obligations.FaultIsTerminal : Prop :=
  (∀ (s t : State) (r : FatalReason), (s.fault.isSome = true ↔ s.seq = .fault) → s.fault = some r →
    step s = .next t → t.fault = some r ∧ t.seq = .fault ∧ t.row = s.row ∧ t.objs = s.objs ∧ t.k = s.k ∧
      (t.sink = s.sink ∨ ∃ rest, s.host = .sink t.sink :: rest)) ∧
  (∀ (s : State) (more : List HostMove), s.seq = .fault → s.host = [] ∨ s.host = .render :: more →
    step s = .fault .stuckInFault)

/-- The only fatal reasons a step raises, and where (R261, R262, R263, R264, R265): BadMode at the start of a line in
mode 3–7, BadObjMode and BadObjShape at the check of an entry with GFX 3, SHAPE 3; never BadBgIndex or BadScreenSize.
The codes are the spec's decision D15. -/
def Obligations.OnlyThreeReasonsAreRaised : Prop :=
  ∀ (s t : State) (r : FatalReason), s.fault = none → step s = .next t → t.fault = some r →
    (r = .badMode ∧ ∃ l, s.seq = .line l (.select .mode) ∧
      3 ≤ ((s.mem.read16 .io 0x000).extractLsb' 0 3).toNat) ∨
    (r = .badObjMode ∧ ∃ l i, s.seq = .line l (.select (.gfx i)) ∧
      (s.mem.read16 .oam (8 * i.val)).extractLsb' 10 2 = 3) ∨
    (r = .badObjShape ∧ ∃ l i, s.seq = .line l (.select (.size i)) ∧
      (s.mem.read16 .oam (8 * i.val)).extractLsb' 14 2 = 3)

/-- Nothing the block does depends on a bit it never reads (R32, R36). A step of a line does the same whatever the
values of VCOUNT, the window registers, MOSAIC, KEYINPUT and the offsets with no register; of DISPCNT's bits 3, 4, 5,
7 and 15:13; of BGnCNT's bits 5:4 and 6, and its bit 13 but at that affine layer's overflow selector; of the scrolls'
bits 15:9 (R25); of the reference points' registers (R39); of the unused bits of BLDCNT, BLDALPHA and BLDY (R28, R29,
R30); of attr0's bit 12; and of every color's bit 15 (R160). RENDER's step reads nothing but the reference points,
without bits 15:12 of their H words (R27). Ignoring windows and mosaic is the spec's decision D26, bit 15 its D21. -/
def Obligations.UnreadRegistersHaveNoEffect : Prop :=
  (∀ (s : State) (m : Memory), s.inLine → s.noHookDue → agreeUnder (lineMask s.seq) s.mem m →
    step (s.withMem m) = mapNext (fun t => t.withMem m) (step s)) ∧
  (∀ (s : State) (m : Memory) (rest : List HostMove), ¬s.inLine → s.host = .render :: rest →
    agreeUnder requestMask s.mem m → step (s.withMem m) = mapNext (fun t => t.withMem m) (step s))

/-! ### The steps add up to the rules' operations -/

/-- Drawing a regular layer by the source's tile columns gives the same state as drawing it column by column, with the
early-out on filled Pixels or without (R128, R129). -/
def Obligations.TileWalkEqualsColumnWalk : Prop :=
  ∀ (n : Fin 4) (l : Fin 160) (s : State), Reference.drawTextBg n l s = Reference.drawTextBgByTiles n l s

/-- Drawing a regular object by tile columns is the per-pixel form (R196). -/
def Obligations.RegularObjectTilesEqualPixels : Prop :=
  ∀ (o : ObjDesc) (l : Fin 160) (s : State), o.w % 8 = 0 →
    Reference.drawRegularObj o l s = Reference.drawRegularObjByTiles o l s

/-- The steps of a layer's column are the body of its renderer's loop: three for a regular layer (DRAW_TEXT_BG, R127),
two or three for an affine one (DRAW_AFFINE_BG, R174). The counts of steps are the model's granularity,
notes/assumptions/1.md. -/
def Obligations.ColumnsAreTheRulesLoopBodies : Prop :=
  ∀ (s : State) (l : Fin 160) (j : Nat) (c : Fin 240),
    (∀ n, s.seq = .line l (.draw j (.textSize n c)) →
      reaches 3 s ((Reference.textColumn n l s c).endTextCol l j n c)) ∧
    (∀ n, s.seq = .line l (.draw j (.affSize n c)) →
      ∃ k, k ≤ 3 ∧ reaches k s ((Reference.affineColumn n l s c).endAffCol l j n c))

/-- A line's steps, from its start to the next line's, are LINE_STEP (R222, with R190, R221, R223 and R248): the same
row, object list, sink, VRAM draws and fault. That a line is more than one step is notes/assumptions/1.md. -/
def Obligations.LineIsTheRulesLineStep : Prop :=
  ∀ (s : State) (l : Fin 160), s.seq = .line l (.select .mode) → s.noHookDue →
    ∃ k, reaches k s (Reference.lineResult l s)

/-- A request's steps, from the host's RENDER to its end, are RENDER_FRAME (R224): with `P_LINE_HOOK` false whatever
the host's program, and with it true, each line after the hook's writes that precede it (R70), when these are legal.
That it is more than one step is notes/assumptions/1.md; how the hook's writes are queued is 11.md. -/
def Obligations.FrameIsTheRulesRenderFrame : Prop :=
  ∀ (s : State) (rest : List HostMove), s.asksForAFrame rest → s.hooksLegal rest →
    ∃ k, reaches k s (Reference.renderFrame (s.withHost rest))

/-- Every request whose hook writes, if any, are legal ends (R70, R278, R290): in DONE with no fault and every cell of
the sink written, or in FAULT with a reason and the cells of the lines before the faulting one written and the others
as the host left them (R225, R267). A written cell does not depend on what the sink held: with any other sink the same
steps lead to the same end. With `P_LINE_HOOK` false the regions and the host's later moves are untouched. The fault's
end of a request is the spec's decision D24. -/
def Obligations.EveryRequestEnds : Prop :=
  ∀ (s : State) (rest : List HostMove), s.asksForAFrame rest → s.hooksLegal rest →
    ∃ (n : Nat) (t : State) (written : Nat), reaches n s t ∧ t.host <:+ rest ∧
      (s.cfg.lineHook = false → t.mem = s.mem ∧ t.host = rest) ∧
      (∀ k : Sink, reaches n (s.withSink k) (t.withSink (sinkUpTo written t.sink k))) ∧
      ((t.seq = .done ∧ t.fault = none ∧ written = 160) ∨
        (t.seq = .fault ∧ t.fault.isSome = true ∧ written < 160))
end

