-- ==== Sys2Proof/Laws/Formats.lean ====
section
/-! SUPPORT. The laws of the formats (spec/30_encoding.md R81–R93): each bit of a format's word, and that the word and
the fields determine each other. -/

namespace Sys2Proof

/-- The bytes of a word make the word (R62). -/
theorem half_of_halfBytes (w : Half) : half (w.extractLsb' 0 8) (w.extractLsb' 8 8) = w := by
  apply BitVec.eq_of_getLsbD_eq
  intro i h
  change BitVec.getLsbD (w := 8 + 8) (w.extractLsb' 8 8 ++ w.extractLsb' 0 8) i = _
  simp only [BitVec.getLsbD_append, BitVec.getLsbD_extractLsb']
  by_cases h8 : i < 8
  · simp [h8]
  · have e : 8 + (i - 8) = i := by omega
    have d : i - 8 < 8 := by omega
    simp [h8, d, e]

/-- The low byte of a word made of two bytes. -/
theorem half_low (lo hi : Byte) : (half lo hi).extractLsb' 0 8 = lo := by
  apply BitVec.eq_of_getLsbD_eq
  intro i h
  simp only [BitVec.getLsbD_extractLsb', h, decide_true, Bool.true_and, Nat.zero_add]
  change BitVec.getLsbD (w := 8 + 8) (hi ++ lo) i = _
  simp only [BitVec.getLsbD_append, h, if_true]

/-- The high byte of a word made of two bytes. -/
theorem half_high (lo hi : Byte) : (half lo hi).extractLsb' 8 8 = hi := by
  apply BitVec.eq_of_getLsbD_eq
  intro i h
  simp only [BitVec.getLsbD_extractLsb', h, decide_true, Bool.true_and]
  change BitVec.getLsbD (w := 8 + 8) (hi ++ lo) (8 + i) = _
  have e : ¬ 8 + i < 8 := by omega
  have d : 8 + i - 8 = i := by omega
  simp only [BitVec.getLsbD_append, e, if_false, d]

/-- Each bit of the word. -/
theorem DispCnt.toWord_getLsbD (d : DispCnt) (i : Nat) :
    d.toWord.getLsbD i =
      if i < 3 then d.bgMode.getLsbD i else
      if i < 6 then d.bits53.getLsbD (i - 3) else
      if i < 7 then d.objMap else
      if i < 8 then d.forcedBlank else
      if i < 12 then d.bgEn.getLsbD (i - 8) else
      if i < 13 then d.objEn else
      d.windows.getLsbD (i - 13) := by
  unfold DispCnt.toWord
  change BitVec.getLsbD (w := 3 + 1 + 4 + 1 + 1 + 3 + 3) _ i = _
  simp only [BitVec.getLsbD_append, Nat.sub_sub]
  split_ifs <;> first
    | omega
    | rfl
    | (have e : i = 6 := by omega
       subst e
       simp)
    | (have e : i = 7 := by omega
       subst e
       simp)
    | (have e : i = 12 := by omega
       subst e
       simp)

/-- The fields of the word of the fields. -/
theorem DispCnt.ofWord_toWord (d : DispCnt) : DispCnt.ofWord d.toWord = d := by
  have key := DispCnt.toWord_getLsbD d
  cases d
  simp only [DispCnt.ofWord, DispCnt.mk.injEq]
  refine ⟨?_, ?_, ?_, ?_, ?_, ?_, ?_⟩
  · apply BitVec.eq_of_getLsbD_eq
    intro i h
    simp only [BitVec.getLsbD_extractLsb', key, h, decide_true, Bool.true_and]
    split_ifs <;> first | omega | simp
  · apply BitVec.eq_of_getLsbD_eq
    intro i h
    simp only [BitVec.getLsbD_extractLsb', key, h, decide_true, Bool.true_and]
    split_ifs <;> first | omega | simp
  · simp only [key]
    simp
  · simp only [key]
    simp
  · apply BitVec.eq_of_getLsbD_eq
    intro i h
    simp only [BitVec.getLsbD_extractLsb', key, h, decide_true, Bool.true_and]
    split_ifs <;> first | omega | simp
  · simp only [key]
    simp
  · apply BitVec.eq_of_getLsbD_eq
    intro i h
    simp only [BitVec.getLsbD_extractLsb', key, h, decide_true, Bool.true_and]
    split_ifs <;> first | omega | simp

/-- The word of the fields of a word. -/
theorem DispCnt.toWord_ofWord (w : Half) : (DispCnt.ofWord w).toWord = w := by
  apply BitVec.eq_of_getLsbD_eq
  intro i h
  rw [DispCnt.toWord_getLsbD]
  simp only [DispCnt.ofWord, BitVec.getLsbD_extractLsb']
  split_ifs
  · rw [Nat.zero_add, decide_eq_true (by omega), Bool.true_and]
  · rw [show 3 + (i - 3) = i by omega, decide_eq_true (by omega), Bool.true_and]
  · rw [show i = 6 by omega]
  · rw [show i = 7 by omega]
  · rw [show 8 + (i - 8) = i by omega, decide_eq_true (by omega), Bool.true_and]
  · rw [show i = 12 by omega]
  · rw [show 13 + (i - 13) = i by omega, decide_eq_true (by omega), Bool.true_and]

/-- Each bit of the word. -/
theorem BgCnt.toWord_getLsbD (d : BgCnt) (i : Nat) :
    d.toWord.getLsbD i =
      if i < 2 then d.prio.getLsbD i else
      if i < 4 then d.cbb.getLsbD (i - 2) else
      if i < 6 then d.bits54.getLsbD (i - 4) else
      if i < 7 then d.mosaic else
      if i < 8 then d.depth else
      if i < 13 then d.sbb.getLsbD (i - 8) else
      if i < 14 then d.overflow else
      d.size.getLsbD (i - 14) := by
  unfold BgCnt.toWord
  change BitVec.getLsbD (w := 2 + 1 + 5 + 1 + 1 + 2 + 2 + 2) _ i = _
  simp only [BitVec.getLsbD_append, Nat.sub_sub]
  split_ifs <;> first
    | omega
    | rfl
    | (have e : i = 6 := by omega
       subst e
       simp)
    | (have e : i = 7 := by omega
       subst e
       simp)
    | (have e : i = 13 := by omega
       subst e
       simp)

/-- The fields of the word of the fields. -/
theorem BgCnt.ofWord_toWord (d : BgCnt) : BgCnt.ofWord d.toWord = d := by
  have key := BgCnt.toWord_getLsbD d
  cases d
  simp only [BgCnt.ofWord, BgCnt.mk.injEq]
  refine ⟨?_, ?_, ?_, ?_, ?_, ?_, ?_, ?_⟩
  · apply BitVec.eq_of_getLsbD_eq
    intro i h
    simp only [BitVec.getLsbD_extractLsb', key, h, decide_true, Bool.true_and]
    split_ifs <;> first | omega | simp
  · apply BitVec.eq_of_getLsbD_eq
    intro i h
    simp only [BitVec.getLsbD_extractLsb', key, h, decide_true, Bool.true_and]
    split_ifs <;> first | omega | simp
  · apply BitVec.eq_of_getLsbD_eq
    intro i h
    simp only [BitVec.getLsbD_extractLsb', key, h, decide_true, Bool.true_and]
    split_ifs <;> first | omega | simp
  · simp only [key]
    simp
  · simp only [key]
    simp
  · apply BitVec.eq_of_getLsbD_eq
    intro i h
    simp only [BitVec.getLsbD_extractLsb', key, h, decide_true, Bool.true_and]
    split_ifs <;> first | omega | simp
  · simp only [key]
    simp
  · apply BitVec.eq_of_getLsbD_eq
    intro i h
    simp only [BitVec.getLsbD_extractLsb', key, h, decide_true, Bool.true_and]
    split_ifs <;> first | omega | simp

/-- The word of the fields of a word. -/
theorem BgCnt.toWord_ofWord (w : Half) : (BgCnt.ofWord w).toWord = w := by
  apply BitVec.eq_of_getLsbD_eq
  intro i h
  rw [BgCnt.toWord_getLsbD]
  simp only [BgCnt.ofWord, BitVec.getLsbD_extractLsb']
  split_ifs
  · rw [Nat.zero_add, decide_eq_true (by omega), Bool.true_and]
  · rw [show 2 + (i - 2) = i by omega, decide_eq_true (by omega), Bool.true_and]
  · rw [show 4 + (i - 4) = i by omega, decide_eq_true (by omega), Bool.true_and]
  · rw [show i = 6 by omega]
  · rw [show i = 7 by omega]
  · rw [show 8 + (i - 8) = i by omega, decide_eq_true (by omega), Bool.true_and]
  · rw [show i = 13 by omega]
  · rw [show 14 + (i - 14) = i by omega, decide_eq_true (by omega), Bool.true_and]

/-- Each bit of the word. -/
theorem BldCnt.toWord_getLsbD (d : BldCnt) (i : Nat) :
    d.toWord.getLsbD i =
      if i < 4 then d.topBg.getLsbD i else
      if i < 5 then d.topObj else
      if i < 6 then d.topBackdrop else
      if i < 8 then d.mode.getLsbD (i - 6) else
      if i < 12 then d.bottomBg.getLsbD (i - 8) else
      if i < 13 then d.bottomObj else
      if i < 14 then d.bottomBackdrop else
      d.bitsFE.getLsbD (i - 14) := by
  unfold BldCnt.toWord
  change BitVec.getLsbD (w := 2 + 1 + 1 + 4 + 2 + 1 + 1 + 4) _ i = _
  simp only [BitVec.getLsbD_append, Nat.sub_sub]
  split_ifs <;> first
    | omega
    | rfl
    | (have e : i = 4 := by omega
       subst e
       simp)
    | (have e : i = 5 := by omega
       subst e
       simp)
    | (have e : i = 12 := by omega
       subst e
       simp)
    | (have e : i = 13 := by omega
       subst e
       simp)

/-- The fields of the word of the fields. -/
theorem BldCnt.ofWord_toWord (d : BldCnt) : BldCnt.ofWord d.toWord = d := by
  have key := BldCnt.toWord_getLsbD d
  cases d
  simp only [BldCnt.ofWord, BldCnt.mk.injEq]
  refine ⟨?_, ?_, ?_, ?_, ?_, ?_, ?_, ?_⟩
  · apply BitVec.eq_of_getLsbD_eq
    intro i h
    simp only [BitVec.getLsbD_extractLsb', key, h, decide_true, Bool.true_and]
    split_ifs <;> first | omega | simp
  · simp only [key]
    simp
  · simp only [key]
    simp
  · apply BitVec.eq_of_getLsbD_eq
    intro i h
    simp only [BitVec.getLsbD_extractLsb', key, h, decide_true, Bool.true_and]
    split_ifs <;> first | omega | simp
  · apply BitVec.eq_of_getLsbD_eq
    intro i h
    simp only [BitVec.getLsbD_extractLsb', key, h, decide_true, Bool.true_and]
    split_ifs <;> first | omega | simp
  · simp only [key]
    simp
  · simp only [key]
    simp
  · apply BitVec.eq_of_getLsbD_eq
    intro i h
    simp only [BitVec.getLsbD_extractLsb', key, h, decide_true, Bool.true_and]
    split_ifs <;> first | omega | simp

/-- The word of the fields of a word. -/
theorem BldCnt.toWord_ofWord (w : Half) : (BldCnt.ofWord w).toWord = w := by
  apply BitVec.eq_of_getLsbD_eq
  intro i h
  rw [BldCnt.toWord_getLsbD]
  simp only [BldCnt.ofWord, BitVec.getLsbD_extractLsb']
  split_ifs
  · rw [Nat.zero_add, decide_eq_true (by omega), Bool.true_and]
  · rw [show i = 4 by omega]
  · rw [show i = 5 by omega]
  · rw [show 6 + (i - 6) = i by omega, decide_eq_true (by omega), Bool.true_and]
  · rw [show 8 + (i - 8) = i by omega, decide_eq_true (by omega), Bool.true_and]
  · rw [show i = 12 by omega]
  · rw [show i = 13 by omega]
  · rw [show 14 + (i - 14) = i by omega, decide_eq_true (by omega), Bool.true_and]

/-- Each bit of the word. -/
theorem SeText.toWord_getLsbD (d : SeText) (i : Nat) :
    d.toWord.getLsbD i =
      if i < 10 then d.tile.getLsbD i else
      if i < 11 then d.hflip else
      if i < 12 then d.vflip else
      d.bank.getLsbD (i - 12) := by
  unfold SeText.toWord
  change BitVec.getLsbD (w := 4 + 1 + 1 + 10) _ i = _
  simp only [BitVec.getLsbD_append, Nat.sub_sub]
  split_ifs <;> first
    | omega
    | rfl
    | (have e : i = 10 := by omega
       subst e
       simp)
    | (have e : i = 11 := by omega
       subst e
       simp)

/-- The fields of the word of the fields. -/
theorem SeText.ofWord_toWord (d : SeText) : SeText.ofWord d.toWord = d := by
  have key := SeText.toWord_getLsbD d
  cases d
  simp only [SeText.ofWord, SeText.mk.injEq]
  refine ⟨?_, ?_, ?_, ?_⟩
  · apply BitVec.eq_of_getLsbD_eq
    intro i h
    simp only [BitVec.getLsbD_extractLsb', key, h, decide_true, Bool.true_and]
    split_ifs <;> first | omega | simp
  · simp only [key]
    simp
  · simp only [key]
    simp
  · apply BitVec.eq_of_getLsbD_eq
    intro i h
    simp only [BitVec.getLsbD_extractLsb', key, h, decide_true, Bool.true_and]
    split_ifs <;> first | omega | simp

/-- The word of the fields of a word. -/
theorem SeText.toWord_ofWord (w : Half) : (SeText.ofWord w).toWord = w := by
  apply BitVec.eq_of_getLsbD_eq
  intro i h
  rw [SeText.toWord_getLsbD]
  simp only [SeText.ofWord, BitVec.getLsbD_extractLsb']
  split_ifs
  · rw [Nat.zero_add, decide_eq_true (by omega), Bool.true_and]
  · rw [show i = 10 by omega]
  · rw [show i = 11 by omega]
  · rw [show 12 + (i - 12) = i by omega, decide_eq_true (by omega), Bool.true_and]

/-- Each bit of the word. -/
theorem Attr0.toWord_getLsbD (d : Attr0) (i : Nat) :
    d.toWord.getLsbD i =
      if i < 8 then d.y.getLsbD i else
      if i < 10 then d.rm.getLsbD (i - 8) else
      if i < 12 then d.gfx.getLsbD (i - 10) else
      if i < 13 then d.mosaic else
      if i < 14 then d.depth else
      d.shape.getLsbD (i - 14) := by
  unfold Attr0.toWord
  change BitVec.getLsbD (w := 2 + 1 + 1 + 2 + 2 + 8) _ i = _
  simp only [BitVec.getLsbD_append, Nat.sub_sub]
  split_ifs <;> first
    | omega
    | rfl
    | (have e : i = 12 := by omega
       subst e
       simp)
    | (have e : i = 13 := by omega
       subst e
       simp)

/-- The fields of the word of the fields. -/
theorem Attr0.ofWord_toWord (d : Attr0) : Attr0.ofWord d.toWord = d := by
  have key := Attr0.toWord_getLsbD d
  cases d
  simp only [Attr0.ofWord, Attr0.mk.injEq]
  refine ⟨?_, ?_, ?_, ?_, ?_, ?_⟩
  · apply BitVec.eq_of_getLsbD_eq
    intro i h
    simp only [BitVec.getLsbD_extractLsb', key, h, decide_true, Bool.true_and]
    split_ifs <;> first | omega | simp
  · apply BitVec.eq_of_getLsbD_eq
    intro i h
    simp only [BitVec.getLsbD_extractLsb', key, h, decide_true, Bool.true_and]
    split_ifs <;> first | omega | simp
  · apply BitVec.eq_of_getLsbD_eq
    intro i h
    simp only [BitVec.getLsbD_extractLsb', key, h, decide_true, Bool.true_and]
    split_ifs <;> first | omega | simp
  · simp only [key]
    simp
  · simp only [key]
    simp
  · apply BitVec.eq_of_getLsbD_eq
    intro i h
    simp only [BitVec.getLsbD_extractLsb', key, h, decide_true, Bool.true_and]
    split_ifs <;> first | omega | simp

/-- The word of the fields of a word. -/
theorem Attr0.toWord_ofWord (w : Half) : (Attr0.ofWord w).toWord = w := by
  apply BitVec.eq_of_getLsbD_eq
  intro i h
  rw [Attr0.toWord_getLsbD]
  simp only [Attr0.ofWord, BitVec.getLsbD_extractLsb']
  split_ifs
  · rw [Nat.zero_add, decide_eq_true (by omega), Bool.true_and]
  · rw [show 8 + (i - 8) = i by omega, decide_eq_true (by omega), Bool.true_and]
  · rw [show 10 + (i - 10) = i by omega, decide_eq_true (by omega), Bool.true_and]
  · rw [show i = 12 by omega]
  · rw [show i = 13 by omega]
  · rw [show 14 + (i - 14) = i by omega, decide_eq_true (by omega), Bool.true_and]

/-- Each bit of the word. -/
theorem Attr1.toWord_getLsbD (d : Attr1) (i : Nat) :
    d.toWord.getLsbD i =
      if i < 9 then d.x.getLsbD i else
      if i < 12 then d.bitsB9.getLsbD (i - 9) else
      if i < 13 then d.hflip else
      if i < 14 then d.vflip else
      d.size.getLsbD (i - 14) := by
  unfold Attr1.toWord
  change BitVec.getLsbD (w := 2 + 1 + 1 + 3 + 9) _ i = _
  simp only [BitVec.getLsbD_append, Nat.sub_sub]
  split_ifs <;> first
    | omega
    | rfl
    | (have e : i = 12 := by omega
       subst e
       simp)
    | (have e : i = 13 := by omega
       subst e
       simp)

/-- The fields of the word of the fields. -/
theorem Attr1.ofWord_toWord (d : Attr1) : Attr1.ofWord d.toWord = d := by
  have key := Attr1.toWord_getLsbD d
  cases d
  simp only [Attr1.ofWord, Attr1.mk.injEq]
  refine ⟨?_, ?_, ?_, ?_, ?_⟩
  · apply BitVec.eq_of_getLsbD_eq
    intro i h
    simp only [BitVec.getLsbD_extractLsb', key, h, decide_true, Bool.true_and]
    split_ifs <;> first | omega | simp
  · apply BitVec.eq_of_getLsbD_eq
    intro i h
    simp only [BitVec.getLsbD_extractLsb', key, h, decide_true, Bool.true_and]
    split_ifs <;> first | omega | simp
  · simp only [key]
    simp
  · simp only [key]
    simp
  · apply BitVec.eq_of_getLsbD_eq
    intro i h
    simp only [BitVec.getLsbD_extractLsb', key, h, decide_true, Bool.true_and]
    split_ifs <;> first | omega | simp

/-- The word of the fields of a word. -/
theorem Attr1.toWord_ofWord (w : Half) : (Attr1.ofWord w).toWord = w := by
  apply BitVec.eq_of_getLsbD_eq
  intro i h
  rw [Attr1.toWord_getLsbD]
  simp only [Attr1.ofWord, BitVec.getLsbD_extractLsb']
  split_ifs
  · rw [Nat.zero_add, decide_eq_true (by omega), Bool.true_and]
  · rw [show 9 + (i - 9) = i by omega, decide_eq_true (by omega), Bool.true_and]
  · rw [show i = 12 by omega]
  · rw [show i = 13 by omega]
  · rw [show 14 + (i - 14) = i by omega, decide_eq_true (by omega), Bool.true_and]

end Sys2Proof
end

