-- ==== Sys2Proof/Laws/Memory.lean ====
section
/-! SUPPORT. The laws of the regions: every memory operation keeps the canonical form, reset's memory has it, a read
after a write gives the byte written, and a write leaves every other byte alone. -/

namespace Sys2Proof.Machine

open Sys2Proof.Config

/-! ### One region -/

/-- Cells canonical from an offset are canonical from any lower one. -/
theorem cellsWf_lower {size lo lo' : Nat} (h : lo' ≤ lo) :
    ∀ {cs : List Host.Cell}, cellsWf size lo cs = true → cellsWf size lo' cs = true
  | [], _ => rfl
  | (a, v) :: rest, hw => by
    simp only [cellsWf, Bool.and_eq_true, decide_eq_true_eq] at hw ⊢
    exact ⟨⟨⟨by omega, hw.1.1.2⟩, hw.1.2⟩, hw.2⟩

/-- A write in range keeps the canonical form. -/
theorem cellsWrite_wf {size a : Nat} (ha : a < size) (v : Byte) :
    ∀ {cs : List Host.Cell} {lo : Nat}, lo ≤ a → cellsWf size lo cs = true →
      cellsWf size lo (cellsWrite cs a v) = true
  | [], lo, hlo, _ => by
    unfold cellsWrite; split
    · rfl
    · simp_all [cellsWf]
  | (b, w) :: rest, lo, hlo, hw => by
    have hw' := hw
    simp only [cellsWf, Bool.and_eq_true, decide_eq_true_eq, bne_iff_ne, ne_eq] at hw'
    obtain ⟨⟨⟨hlb, hb⟩, hwu⟩, hrest⟩ := hw'
    unfold cellsWrite
    split
    · split
      · exact hw
      · simp only [cellsWf, Bool.and_eq_true, decide_eq_true_eq, bne_iff_ne, ne_eq]
        exact ⟨⟨⟨hlo, ha⟩, ‹_›⟩, ⟨⟨by omega, hb⟩, hwu⟩, hrest⟩
    · split
      · subst_vars
        split
        · exact cellsWf_lower (by omega) hrest
        · simp only [cellsWf, Bool.and_eq_true, decide_eq_true_eq, bne_iff_ne, ne_eq]
          exact ⟨⟨⟨hlo, ha⟩, ‹_›⟩, hrest⟩
      · simp only [cellsWf, Bool.and_eq_true, decide_eq_true_eq, bne_iff_ne, ne_eq]
        exact ⟨⟨⟨hlb, hb⟩, hwu⟩, cellsWrite_wf ha v (by omega) hrest⟩

/-- Below its first offset a canonical region reads as unlisted. -/
theorem cellsRead_below {size a : Nat} :
    ∀ {cs : List Host.Cell} {lo : Nat}, a < lo → cellsWf size lo cs = true → cellsRead cs a = unlisted
  | [], _, _, _ => rfl
  | (b, w) :: rest, lo, hlo, hw => by
    simp only [cellsWf, Bool.and_eq_true, decide_eq_true_eq] at hw
    unfold cellsRead
    rw [if_neg (by omega)]
    exact cellsRead_below (lo := b + 1) (by omega) hw.2

/-- A read after a write to the same offset of a canonical region gives the byte written. -/
theorem cellsRead_write_same {size a : Nat} (v : Byte) :
    ∀ {cs : List Host.Cell} {lo : Nat}, cellsWf size lo cs = true → cellsRead (cellsWrite cs a v) a = v
  | [], _, _ => by
    unfold cellsWrite; split <;> simp_all [cellsRead]
  | (b, w) :: rest, lo, hw => by
    simp only [cellsWf, Bool.and_eq_true, decide_eq_true_eq] at hw
    unfold cellsWrite
    split
    · rename_i hab
      split
      · rename_i hv
        rw [hv]; unfold cellsRead; rw [if_neg (by omega)]
        exact cellsRead_below (lo := b + 1) (by omega) hw.2
      · simp [cellsRead]
    · split
      · split
        · rename_i hab hv
          rw [hv]
          exact cellsRead_below (lo := b + 1) (by omega) hw.2
        · simp [cellsRead]
      · unfold cellsRead; rw [if_neg ‹_›]
        exact cellsRead_write_same v hw.2

/-- A write leaves every other offset alone. -/
theorem cellsRead_write_other {a b : Nat} (h : b ≠ a) (v : Byte) :
    ∀ cs : List Host.Cell, cellsRead (cellsWrite cs a v) b = cellsRead cs b
  | [] => by
    unfold cellsWrite; split <;> simp [cellsRead, h]
  | (c, w) :: rest => by
    unfold cellsWrite
    split
    · split
      · rfl
      · simp [cellsRead, h]
    · split
      · subst_vars
        split <;> simp [cellsRead, h]
      · simp only [cellsRead]
        rw [cellsRead_write_other h v rest]

/-! ### The four regions -/

/-- The canonical form, region by region. -/
theorem Memory.wf_iff (m : Memory) : m.wf = true ↔ ∀ r : Region, cellsWf r.size 0 (m.cells r) = true := by
  constructor
  · intro h r
    simp only [Memory.wf, Bool.and_eq_true] at h
    cases r
    · exact h.1.1.1
    · exact h.1.1.2
    · exact h.1.2
    · exact h.2
  · intro h
    simp only [Memory.wf, Bool.and_eq_true]
    exact ⟨⟨⟨h .io, h .vram⟩, h .oam⟩, h .pal⟩

/-- The cells of a region after a write to it. -/
@[simp] theorem Memory.write8_cells_same (m : Memory) (r : Region) (off : Nat) (v : Byte) :
    (m.write8 r off v).cells r = cellsWrite (m.cells r) off v := by cases r <;> rfl

/-- A write to a region leaves the others alone: no region boundary is crossed (R61). -/
theorem Memory.write8_cells_other (m : Memory) {r r' : Region} (h : r' ≠ r) (off : Nat) (v : Byte) :
    (m.write8 r off v).cells r' = m.cells r' := by
  cases r <;> cases r' <;> first | rfl | exact absurd rfl h

/-- A byte write in range keeps the canonical form. -/
theorem Memory.write8_wf {m : Memory} {r : Region} {off : Nat} (v : Byte) (ho : off < r.size) (h : m.wf = true) :
    (m.write8 r off v).wf = true := by
  rw [Memory.wf_iff] at h ⊢
  intro r'
  by_cases hr : r' = r
  · subst hr
    rw [Memory.write8_cells_same]
    exact cellsWrite_wf ho v (Nat.zero_le _) (h r')
  · rw [Memory.write8_cells_other m hr]
    exact h r'

/-- A 16-bit write in range keeps the canonical form. -/
theorem Memory.write16_wf {m : Memory} {r : Region} {off : Nat} (v : Half) (ho : off + 1 < r.size)
    (h : m.wf = true) : (m.write16 r off v).wf = true :=
  Memory.write8_wf _ ho (Memory.write8_wf _ (by omega) h)

/-- A run of byte writes in range keeps the canonical form. -/
theorem Memory.writeBytes_wf {r : Region} :
    ∀ {bs : List Byte} {m : Memory} {off : Nat}, off + bs.length ≤ r.size → m.wf = true →
      (m.writeBytes r off bs).wf = true
  | [], _, _, _, h => h
  | b :: rest, m, off, ho, h => by
    simp only [List.length_cons] at ho
    exact Memory.writeBytes_wf (m := m.write8 r off b) (off := off + 1) (bs := rest) (by omega)
      (Memory.write8_wf b (by omega) h)

/-- Reset's memory is in canonical form. -/
theorem reset_mem_wf : State.reset.mem.wf = true := rfl

/-- A read after a write gives the byte written (R31). -/
theorem Memory.read8_write8_same {m : Memory} (h : m.wf = true) (r : Region) (off : Nat) (v : Byte) :
    (m.write8 r off v).read8 r off = v := by
  unfold Memory.read8
  rw [Memory.write8_cells_same]
  exact cellsRead_write_same v ((Memory.wf_iff m).1 h r)

/-- A write leaves every other byte of every region alone. -/
theorem Memory.read8_write8_other (m : Memory) {r r' : Region} {off off' : Nat} (h : ¬(r' = r ∧ off' = off))
    (v : Byte) : (m.write8 r off v).read8 r' off' = m.read8 r' off' := by
  unfold Memory.read8
  by_cases hr : r' = r
  · subst hr
    rw [Memory.write8_cells_same]
    exact cellsRead_write_other (fun e => h ⟨rfl, e⟩) v _
  · rw [Memory.write8_cells_other m hr]

/-- Everything a host write can do (R31, R63): it answers a next state only in range, at an even offset when 16 bits
wide, and then only the memory changes. -/
theorem hostWrite_next {s t : State} {w : HostWrite} (h : s.hostWrite w = .next t) :
    (∃ r off v, w = .w8 r off v ∧ off < r.size ∧ t = s.withMem (s.mem.write8 r off v)) ∨
    (∃ r off v, w = .w16 r off v ∧ off % 2 = 0 ∧ off < r.size ∧ t = s.withMem (s.mem.write16 r off v)) := by
  cases w with
  | w8 r off v =>
    simp only [State.hostWrite, HostWrite.store] at h
    split at h
    · exact .inl ⟨r, off, v, rfl, ‹_›, by injection h with h; exact h.symm⟩
    · cases h
  | w16 r off v =>
    simp only [State.hostWrite, HostWrite.store] at h
    split at h
    · cases h
    · split at h
      · exact .inr ⟨r, off, v, rfl, by omega, ‹_›, by injection h with h; exact h.symm⟩
      · cases h

/-- Every region's size is even, so a 16-bit word at an even offset in range is all in range. -/
theorem Region.size_even (r : Region) : r.size % 2 = 0 := by cases r <;> rfl

/-- A host write keeps the canonical form. -/
theorem hostWrite_wf {s t : State} {w : HostWrite} (h : s.hostWrite w = .next t) (hw : s.mem.wf = true) :
    t.mem.wf = true := by
  obtain ⟨r, off, v, -, ho, rfl⟩ | ⟨r, off, v, -, he, ho, rfl⟩ := hostWrite_next h
  · exact Memory.write8_wf v ho hw
  · exact Memory.write16_wf v (by have := Region.size_even r; omega) hw

/-- A table word is laid out in as many bytes as its selector has. -/
theorem bytesOfNat_length : ∀ n w : Nat, (bytesOfNat n w).length = n
  | 0, _ => rfl
  | n + 1, w => by simp [bytesOfNat, bytesOfNat_length n]

end Sys2Proof.Machine
end

