-- ==== Sys2Proof/Laws/State.lean ====
section
/-! SUPPORT. One lemma per field per update of the state, true by rfl and simp: no later proof unfolds a record
update. After them the same for the updates made of several: a byte of VRAM read, an index offered to the row, and
the moves of the sequencer, each with the fields it leaves alone. -/

namespace Sys2Proof.Machine

/-! ### withMem -/

@[simp] theorem State.withMem_cfg (s : State) (m : Memory) : (s.withMem m).cfg = s.cfg := rfl
@[simp] theorem State.withMem_mem (s : State) (m : Memory) : (s.withMem m).mem = m := rfl
@[simp] theorem State.withMem_row (s : State) (m : Memory) : (s.withMem m).row = s.row := rfl
@[simp] theorem State.withMem_objs (s : State) (m : Memory) : (s.withMem m).objs = s.objs := rfl
@[simp] theorem State.withMem_k (s : State) (m : Memory) : (s.withMem m).k = s.k := rfl
@[simp] theorem State.withMem_layers (s : State) (m : Memory) : (s.withMem m).layers = s.layers := rfl
@[simp] theorem State.withMem_x2 (s : State) (m : Memory) : (s.withMem m).x2 = s.x2 := rfl
@[simp] theorem State.withMem_y2 (s : State) (m : Memory) : (s.withMem m).y2 = s.y2 := rfl
@[simp] theorem State.withMem_x3 (s : State) (m : Memory) : (s.withMem m).x3 = s.x3 := rfl
@[simp] theorem State.withMem_y3 (s : State) (m : Memory) : (s.withMem m).y3 = s.y3 := rfl
@[simp] theorem State.withMem_fault (s : State) (m : Memory) : (s.withMem m).fault = s.fault := rfl
@[simp] theorem State.withMem_seq (s : State) (m : Memory) : (s.withMem m).seq = s.seq := rfl
@[simp] theorem State.withMem_sink (s : State) (m : Memory) : (s.withMem m).sink = s.sink := rfl
@[simp] theorem State.withMem_host (s : State) (m : Memory) : (s.withMem m).host = s.host := rfl
@[simp] theorem State.withMem_oobReads (s : State) (m : Memory) : (s.withMem m).oobReads = s.oobReads := rfl

/-! ### withHost -/

@[simp] theorem State.withHost_cfg (s : State) (h : List HostMove) : (s.withHost h).cfg = s.cfg := rfl
@[simp] theorem State.withHost_mem (s : State) (h : List HostMove) : (s.withHost h).mem = s.mem := rfl
@[simp] theorem State.withHost_row (s : State) (h : List HostMove) : (s.withHost h).row = s.row := rfl
@[simp] theorem State.withHost_objs (s : State) (h : List HostMove) : (s.withHost h).objs = s.objs := rfl
@[simp] theorem State.withHost_k (s : State) (h : List HostMove) : (s.withHost h).k = s.k := rfl
@[simp] theorem State.withHost_layers (s : State) (h : List HostMove) : (s.withHost h).layers = s.layers := rfl
@[simp] theorem State.withHost_x2 (s : State) (h : List HostMove) : (s.withHost h).x2 = s.x2 := rfl
@[simp] theorem State.withHost_y2 (s : State) (h : List HostMove) : (s.withHost h).y2 = s.y2 := rfl
@[simp] theorem State.withHost_x3 (s : State) (h : List HostMove) : (s.withHost h).x3 = s.x3 := rfl
@[simp] theorem State.withHost_y3 (s : State) (h : List HostMove) : (s.withHost h).y3 = s.y3 := rfl
@[simp] theorem State.withHost_fault (s : State) (h : List HostMove) : (s.withHost h).fault = s.fault := rfl
@[simp] theorem State.withHost_seq (s : State) (h : List HostMove) : (s.withHost h).seq = s.seq := rfl
@[simp] theorem State.withHost_sink (s : State) (h : List HostMove) : (s.withHost h).sink = s.sink := rfl
@[simp] theorem State.withHost_host (s : State) (h : List HostMove) : (s.withHost h).host = h := rfl
@[simp] theorem State.withHost_oobReads (s : State) (h : List HostMove) : (s.withHost h).oobReads = s.oobReads := rfl

/-! ### withSink -/

@[simp] theorem State.withSink_cfg (s : State) (k : Sink) : (s.withSink k).cfg = s.cfg := rfl
@[simp] theorem State.withSink_mem (s : State) (k : Sink) : (s.withSink k).mem = s.mem := rfl
@[simp] theorem State.withSink_row (s : State) (k : Sink) : (s.withSink k).row = s.row := rfl
@[simp] theorem State.withSink_objs (s : State) (k : Sink) : (s.withSink k).objs = s.objs := rfl
@[simp] theorem State.withSink_k (s : State) (k : Sink) : (s.withSink k).k = s.k := rfl
@[simp] theorem State.withSink_layers (s : State) (k : Sink) : (s.withSink k).layers = s.layers := rfl
@[simp] theorem State.withSink_x2 (s : State) (k : Sink) : (s.withSink k).x2 = s.x2 := rfl
@[simp] theorem State.withSink_y2 (s : State) (k : Sink) : (s.withSink k).y2 = s.y2 := rfl
@[simp] theorem State.withSink_x3 (s : State) (k : Sink) : (s.withSink k).x3 = s.x3 := rfl
@[simp] theorem State.withSink_y3 (s : State) (k : Sink) : (s.withSink k).y3 = s.y3 := rfl
@[simp] theorem State.withSink_fault (s : State) (k : Sink) : (s.withSink k).fault = s.fault := rfl
@[simp] theorem State.withSink_seq (s : State) (k : Sink) : (s.withSink k).seq = s.seq := rfl
@[simp] theorem State.withSink_sink (s : State) (k : Sink) : (s.withSink k).sink = k := rfl
@[simp] theorem State.withSink_host (s : State) (k : Sink) : (s.withSink k).host = s.host := rfl
@[simp] theorem State.withSink_oobReads (s : State) (k : Sink) : (s.withSink k).oobReads = s.oobReads := rfl

/-! ### withObjs -/

@[simp] theorem State.withObjs_cfg (s : State) (os : List ObjDesc) : (s.withObjs os).cfg = s.cfg := rfl
@[simp] theorem State.withObjs_mem (s : State) (os : List ObjDesc) : (s.withObjs os).mem = s.mem := rfl
@[simp] theorem State.withObjs_row (s : State) (os : List ObjDesc) : (s.withObjs os).row = s.row := rfl
@[simp] theorem State.withObjs_objs (s : State) (os : List ObjDesc) : (s.withObjs os).objs = os := rfl
@[simp] theorem State.withObjs_k (s : State) (os : List ObjDesc) : (s.withObjs os).k = s.k := rfl
@[simp] theorem State.withObjs_layers (s : State) (os : List ObjDesc) : (s.withObjs os).layers = s.layers := rfl
@[simp] theorem State.withObjs_x2 (s : State) (os : List ObjDesc) : (s.withObjs os).x2 = s.x2 := rfl
@[simp] theorem State.withObjs_y2 (s : State) (os : List ObjDesc) : (s.withObjs os).y2 = s.y2 := rfl
@[simp] theorem State.withObjs_x3 (s : State) (os : List ObjDesc) : (s.withObjs os).x3 = s.x3 := rfl
@[simp] theorem State.withObjs_y3 (s : State) (os : List ObjDesc) : (s.withObjs os).y3 = s.y3 := rfl
@[simp] theorem State.withObjs_fault (s : State) (os : List ObjDesc) : (s.withObjs os).fault = s.fault := rfl
@[simp] theorem State.withObjs_seq (s : State) (os : List ObjDesc) : (s.withObjs os).seq = s.seq := rfl
@[simp] theorem State.withObjs_sink (s : State) (os : List ObjDesc) : (s.withObjs os).sink = s.sink := rfl
@[simp] theorem State.withObjs_host (s : State) (os : List ObjDesc) : (s.withObjs os).host = s.host := rfl
@[simp] theorem State.withObjs_oobReads (s : State) (os : List ObjDesc) : (s.withObjs os).oobReads = s.oobReads := rfl

/-! ### withCursor -/

@[simp] theorem State.withCursor_cfg (s : State) (n : Nat) : (s.withCursor n).cfg = s.cfg := rfl
@[simp] theorem State.withCursor_mem (s : State) (n : Nat) : (s.withCursor n).mem = s.mem := rfl
@[simp] theorem State.withCursor_row (s : State) (n : Nat) : (s.withCursor n).row = s.row := rfl
@[simp] theorem State.withCursor_objs (s : State) (n : Nat) : (s.withCursor n).objs = s.objs := rfl
@[simp] theorem State.withCursor_k (s : State) (n : Nat) : (s.withCursor n).k = n := rfl
@[simp] theorem State.withCursor_layers (s : State) (n : Nat) : (s.withCursor n).layers = s.layers := rfl
@[simp] theorem State.withCursor_x2 (s : State) (n : Nat) : (s.withCursor n).x2 = s.x2 := rfl
@[simp] theorem State.withCursor_y2 (s : State) (n : Nat) : (s.withCursor n).y2 = s.y2 := rfl
@[simp] theorem State.withCursor_x3 (s : State) (n : Nat) : (s.withCursor n).x3 = s.x3 := rfl
@[simp] theorem State.withCursor_y3 (s : State) (n : Nat) : (s.withCursor n).y3 = s.y3 := rfl
@[simp] theorem State.withCursor_fault (s : State) (n : Nat) : (s.withCursor n).fault = s.fault := rfl
@[simp] theorem State.withCursor_seq (s : State) (n : Nat) : (s.withCursor n).seq = s.seq := rfl
@[simp] theorem State.withCursor_sink (s : State) (n : Nat) : (s.withCursor n).sink = s.sink := rfl
@[simp] theorem State.withCursor_host (s : State) (n : Nat) : (s.withCursor n).host = s.host := rfl
@[simp] theorem State.withCursor_oobReads (s : State) (n : Nat) : (s.withCursor n).oobReads = s.oobReads := rfl

/-! ### withLayers -/

@[simp] theorem State.withLayers_cfg (s : State) (ls : List Layer) : (s.withLayers ls).cfg = s.cfg := rfl
@[simp] theorem State.withLayers_mem (s : State) (ls : List Layer) : (s.withLayers ls).mem = s.mem := rfl
@[simp] theorem State.withLayers_row (s : State) (ls : List Layer) : (s.withLayers ls).row = s.row := rfl
@[simp] theorem State.withLayers_objs (s : State) (ls : List Layer) : (s.withLayers ls).objs = s.objs := rfl
@[simp] theorem State.withLayers_k (s : State) (ls : List Layer) : (s.withLayers ls).k = s.k := rfl
@[simp] theorem State.withLayers_layers (s : State) (ls : List Layer) : (s.withLayers ls).layers = ls := rfl
@[simp] theorem State.withLayers_x2 (s : State) (ls : List Layer) : (s.withLayers ls).x2 = s.x2 := rfl
@[simp] theorem State.withLayers_y2 (s : State) (ls : List Layer) : (s.withLayers ls).y2 = s.y2 := rfl
@[simp] theorem State.withLayers_x3 (s : State) (ls : List Layer) : (s.withLayers ls).x3 = s.x3 := rfl
@[simp] theorem State.withLayers_y3 (s : State) (ls : List Layer) : (s.withLayers ls).y3 = s.y3 := rfl
@[simp] theorem State.withLayers_fault (s : State) (ls : List Layer) : (s.withLayers ls).fault = s.fault := rfl
@[simp] theorem State.withLayers_seq (s : State) (ls : List Layer) : (s.withLayers ls).seq = s.seq := rfl
@[simp] theorem State.withLayers_sink (s : State) (ls : List Layer) : (s.withLayers ls).sink = s.sink := rfl
@[simp] theorem State.withLayers_host (s : State) (ls : List Layer) : (s.withLayers ls).host = s.host := rfl
@[simp] theorem State.withLayers_oobReads (s : State) (ls : List Layer) : (s.withLayers ls).oobReads = s.oobReads := rfl

/-! ### countOob -/

@[simp] theorem State.countOob_cfg (s : State) : (s.countOob).cfg = s.cfg := rfl
@[simp] theorem State.countOob_mem (s : State) : (s.countOob).mem = s.mem := rfl
@[simp] theorem State.countOob_row (s : State) : (s.countOob).row = s.row := rfl
@[simp] theorem State.countOob_objs (s : State) : (s.countOob).objs = s.objs := rfl
@[simp] theorem State.countOob_k (s : State) : (s.countOob).k = s.k := rfl
@[simp] theorem State.countOob_layers (s : State) : (s.countOob).layers = s.layers := rfl
@[simp] theorem State.countOob_x2 (s : State) : (s.countOob).x2 = s.x2 := rfl
@[simp] theorem State.countOob_y2 (s : State) : (s.countOob).y2 = s.y2 := rfl
@[simp] theorem State.countOob_x3 (s : State) : (s.countOob).x3 = s.x3 := rfl
@[simp] theorem State.countOob_y3 (s : State) : (s.countOob).y3 = s.y3 := rfl
@[simp] theorem State.countOob_fault (s : State) : (s.countOob).fault = s.fault := rfl
@[simp] theorem State.countOob_seq (s : State) : (s.countOob).seq = s.seq := rfl
@[simp] theorem State.countOob_sink (s : State) : (s.countOob).sink = s.sink := rfl
@[simp] theorem State.countOob_host (s : State) : (s.countOob).host = s.host := rfl
@[simp] theorem State.countOob_oobReads (s : State) : (s.countOob).oobReads = s.oobReads + 1 := rfl

/-! ### goto -/

@[simp] theorem State.goto_cfg (s : State) (q : Seq) : (s.goto q).cfg = s.cfg := rfl
@[simp] theorem State.goto_mem (s : State) (q : Seq) : (s.goto q).mem = s.mem := rfl
@[simp] theorem State.goto_row (s : State) (q : Seq) : (s.goto q).row = s.row := rfl
@[simp] theorem State.goto_objs (s : State) (q : Seq) : (s.goto q).objs = s.objs := rfl
@[simp] theorem State.goto_k (s : State) (q : Seq) : (s.goto q).k = s.k := rfl
@[simp] theorem State.goto_layers (s : State) (q : Seq) : (s.goto q).layers = s.layers := rfl
@[simp] theorem State.goto_x2 (s : State) (q : Seq) : (s.goto q).x2 = s.x2 := rfl
@[simp] theorem State.goto_y2 (s : State) (q : Seq) : (s.goto q).y2 = s.y2 := rfl
@[simp] theorem State.goto_x3 (s : State) (q : Seq) : (s.goto q).x3 = s.x3 := rfl
@[simp] theorem State.goto_y3 (s : State) (q : Seq) : (s.goto q).y3 = s.y3 := rfl
@[simp] theorem State.goto_fault (s : State) (q : Seq) : (s.goto q).fault = s.fault := rfl
@[simp] theorem State.goto_seq (s : State) (q : Seq) : (s.goto q).seq = q := rfl
@[simp] theorem State.goto_sink (s : State) (q : Seq) : (s.goto q).sink = s.sink := rfl
@[simp] theorem State.goto_host (s : State) (q : Seq) : (s.goto q).host = s.host := rfl
@[simp] theorem State.goto_oobReads (s : State) (q : Seq) : (s.goto q).oobReads = s.oobReads := rfl

/-! ### raiseFatal -/

@[simp] theorem State.raiseFatal_cfg (s : State) (r : FatalReason) : (s.raiseFatal r).cfg = s.cfg := rfl
@[simp] theorem State.raiseFatal_mem (s : State) (r : FatalReason) : (s.raiseFatal r).mem = s.mem := rfl
@[simp] theorem State.raiseFatal_row (s : State) (r : FatalReason) : (s.raiseFatal r).row = s.row := rfl
@[simp] theorem State.raiseFatal_objs (s : State) (r : FatalReason) : (s.raiseFatal r).objs = s.objs := rfl
@[simp] theorem State.raiseFatal_k (s : State) (r : FatalReason) : (s.raiseFatal r).k = s.k := rfl
@[simp] theorem State.raiseFatal_layers (s : State) (r : FatalReason) : (s.raiseFatal r).layers = s.layers := rfl
@[simp] theorem State.raiseFatal_x2 (s : State) (r : FatalReason) : (s.raiseFatal r).x2 = s.x2 := rfl
@[simp] theorem State.raiseFatal_y2 (s : State) (r : FatalReason) : (s.raiseFatal r).y2 = s.y2 := rfl
@[simp] theorem State.raiseFatal_x3 (s : State) (r : FatalReason) : (s.raiseFatal r).x3 = s.x3 := rfl
@[simp] theorem State.raiseFatal_y3 (s : State) (r : FatalReason) : (s.raiseFatal r).y3 = s.y3 := rfl
@[simp] theorem State.raiseFatal_fault (s : State) (r : FatalReason) : (s.raiseFatal r).fault = some r := rfl
@[simp] theorem State.raiseFatal_seq (s : State) (r : FatalReason) : (s.raiseFatal r).seq = .fault := rfl
@[simp] theorem State.raiseFatal_sink (s : State) (r : FatalReason) : (s.raiseFatal r).sink = s.sink := rfl
@[simp] theorem State.raiseFatal_host (s : State) (r : FatalReason) : (s.raiseFatal r).host = s.host := rfl
@[simp] theorem State.raiseFatal_oobReads (s : State) (r : FatalReason) : (s.raiseFatal r).oobReads = s.oobReads := rfl

/-! ### startLine -/

@[simp] theorem State.startLine_cfg (s : State) : (s.startLine).cfg = s.cfg := rfl
@[simp] theorem State.startLine_mem (s : State) : (s.startLine).mem = s.mem := rfl
@[simp] theorem State.startLine_row (s : State) : (s.startLine).row = Row.empty := rfl
@[simp] theorem State.startLine_objs (s : State) : (s.startLine).objs = [] := rfl
@[simp] theorem State.startLine_k (s : State) : (s.startLine).k = 0 := rfl
@[simp] theorem State.startLine_layers (s : State) : (s.startLine).layers = [] := rfl
@[simp] theorem State.startLine_x2 (s : State) : (s.startLine).x2 = s.x2 := rfl
@[simp] theorem State.startLine_y2 (s : State) : (s.startLine).y2 = s.y2 := rfl
@[simp] theorem State.startLine_x3 (s : State) : (s.startLine).x3 = s.x3 := rfl
@[simp] theorem State.startLine_y3 (s : State) : (s.startLine).y3 = s.y3 := rfl
@[simp] theorem State.startLine_fault (s : State) : (s.startLine).fault = s.fault := rfl
@[simp] theorem State.startLine_seq (s : State) : (s.startLine).seq = s.seq := rfl
@[simp] theorem State.startLine_sink (s : State) : (s.startLine).sink = s.sink := rfl
@[simp] theorem State.startLine_host (s : State) : (s.startLine).host = s.host := rfl
@[simp] theorem State.startLine_oobReads (s : State) : (s.startLine).oobReads = s.oobReads := rfl

/-! ### latchRef -/

@[simp] theorem State.latchRef_cfg (s : State) : (s.latchRef).cfg = s.cfg := rfl
@[simp] theorem State.latchRef_mem (s : State) : (s.latchRef).mem = s.mem := rfl
@[simp] theorem State.latchRef_row (s : State) : (s.latchRef).row = s.row := rfl
@[simp] theorem State.latchRef_objs (s : State) : (s.latchRef).objs = s.objs := rfl
@[simp] theorem State.latchRef_k (s : State) : (s.latchRef).k = s.k := rfl
@[simp] theorem State.latchRef_layers (s : State) : (s.latchRef).layers = s.layers := rfl
@[simp] theorem State.latchRef_x2 (s : State) : (s.latchRef).x2 = refPoint (s.mem.read16 .io 0x02A) (s.mem.read16 .io 0x028) := rfl
@[simp] theorem State.latchRef_y2 (s : State) : (s.latchRef).y2 = refPoint (s.mem.read16 .io 0x02E) (s.mem.read16 .io 0x02C) := rfl
@[simp] theorem State.latchRef_x3 (s : State) : (s.latchRef).x3 = refPoint (s.mem.read16 .io 0x03A) (s.mem.read16 .io 0x038) := rfl
@[simp] theorem State.latchRef_y3 (s : State) : (s.latchRef).y3 = refPoint (s.mem.read16 .io 0x03E) (s.mem.read16 .io 0x03C) := rfl
@[simp] theorem State.latchRef_fault (s : State) : (s.latchRef).fault = s.fault := rfl
@[simp] theorem State.latchRef_seq (s : State) : (s.latchRef).seq = s.seq := rfl
@[simp] theorem State.latchRef_sink (s : State) : (s.latchRef).sink = s.sink := rfl
@[simp] theorem State.latchRef_host (s : State) : (s.latchRef).host = s.host := rfl
@[simp] theorem State.latchRef_oobReads (s : State) : (s.latchRef).oobReads = s.oobReads := rfl

/-! ### frameWrite -/

@[simp] theorem State.frameWrite_cfg (s : State) (l : Fin 160) (c : Fin 240) (col : Color15) : (s.frameWrite l c col).cfg = s.cfg := rfl
@[simp] theorem State.frameWrite_mem (s : State) (l : Fin 160) (c : Fin 240) (col : Color15) : (s.frameWrite l c col).mem = s.mem := rfl
@[simp] theorem State.frameWrite_row (s : State) (l : Fin 160) (c : Fin 240) (col : Color15) : (s.frameWrite l c col).row = s.row := rfl
@[simp] theorem State.frameWrite_objs (s : State) (l : Fin 160) (c : Fin 240) (col : Color15) : (s.frameWrite l c col).objs = s.objs := rfl
@[simp] theorem State.frameWrite_k (s : State) (l : Fin 160) (c : Fin 240) (col : Color15) : (s.frameWrite l c col).k = s.k := rfl
@[simp] theorem State.frameWrite_layers (s : State) (l : Fin 160) (c : Fin 240) (col : Color15) : (s.frameWrite l c col).layers = s.layers := rfl
@[simp] theorem State.frameWrite_x2 (s : State) (l : Fin 160) (c : Fin 240) (col : Color15) : (s.frameWrite l c col).x2 = s.x2 := rfl
@[simp] theorem State.frameWrite_y2 (s : State) (l : Fin 160) (c : Fin 240) (col : Color15) : (s.frameWrite l c col).y2 = s.y2 := rfl
@[simp] theorem State.frameWrite_x3 (s : State) (l : Fin 160) (c : Fin 240) (col : Color15) : (s.frameWrite l c col).x3 = s.x3 := rfl
@[simp] theorem State.frameWrite_y3 (s : State) (l : Fin 160) (c : Fin 240) (col : Color15) : (s.frameWrite l c col).y3 = s.y3 := rfl
@[simp] theorem State.frameWrite_fault (s : State) (l : Fin 160) (c : Fin 240) (col : Color15) : (s.frameWrite l c col).fault = s.fault := rfl
@[simp] theorem State.frameWrite_seq (s : State) (l : Fin 160) (c : Fin 240) (col : Color15) : (s.frameWrite l c col).seq = s.seq := rfl
@[simp] theorem State.frameWrite_host (s : State) (l : Fin 160) (c : Fin 240) (col : Color15) : (s.frameWrite l c col).host = s.host := rfl
@[simp] theorem State.frameWrite_oobReads (s : State) (l : Fin 160) (c : Fin 240) (col : Color15) : (s.frameWrite l c col).oobReads = s.oobReads := rfl

/-! ### plot -/

@[simp] theorem State.plot_cfg (s : State) (c : Fin 240) (col : Color15) (top bot : Bool) : (s.plot c col top bot).cfg = s.cfg := rfl
@[simp] theorem State.plot_mem (s : State) (c : Fin 240) (col : Color15) (top bot : Bool) : (s.plot c col top bot).mem = s.mem := rfl
@[simp] theorem State.plot_objs (s : State) (c : Fin 240) (col : Color15) (top bot : Bool) : (s.plot c col top bot).objs = s.objs := rfl
@[simp] theorem State.plot_k (s : State) (c : Fin 240) (col : Color15) (top bot : Bool) : (s.plot c col top bot).k = s.k := rfl
@[simp] theorem State.plot_layers (s : State) (c : Fin 240) (col : Color15) (top bot : Bool) : (s.plot c col top bot).layers = s.layers := rfl
@[simp] theorem State.plot_x2 (s : State) (c : Fin 240) (col : Color15) (top bot : Bool) : (s.plot c col top bot).x2 = s.x2 := rfl
@[simp] theorem State.plot_y2 (s : State) (c : Fin 240) (col : Color15) (top bot : Bool) : (s.plot c col top bot).y2 = s.y2 := rfl
@[simp] theorem State.plot_x3 (s : State) (c : Fin 240) (col : Color15) (top bot : Bool) : (s.plot c col top bot).x3 = s.x3 := rfl
@[simp] theorem State.plot_y3 (s : State) (c : Fin 240) (col : Color15) (top bot : Bool) : (s.plot c col top bot).y3 = s.y3 := rfl
@[simp] theorem State.plot_fault (s : State) (c : Fin 240) (col : Color15) (top bot : Bool) : (s.plot c col top bot).fault = s.fault := rfl
@[simp] theorem State.plot_seq (s : State) (c : Fin 240) (col : Color15) (top bot : Bool) : (s.plot c col top bot).seq = s.seq := rfl
@[simp] theorem State.plot_sink (s : State) (c : Fin 240) (col : Color15) (top bot : Bool) : (s.plot c col top bot).sink = s.sink := rfl
@[simp] theorem State.plot_host (s : State) (c : Fin 240) (col : Color15) (top bot : Bool) : (s.plot c col top bot).host = s.host := rfl
@[simp] theorem State.plot_oobReads (s : State) (c : Fin 240) (col : Color15) (top bot : Bool) : (s.plot c col top bot).oobReads = s.oobReads := rfl

/-! ### vramByte -/

@[simp] theorem State.vramByte_cfg (s : State) (off : Nat) :
    ((s.vramByte off).2).cfg = s.cfg := by
  unfold State.vramByte; split <;> rfl
@[simp] theorem State.vramByte_mem (s : State) (off : Nat) :
    ((s.vramByte off).2).mem = s.mem := by
  unfold State.vramByte; split <;> rfl
@[simp] theorem State.vramByte_row (s : State) (off : Nat) :
    ((s.vramByte off).2).row = s.row := by
  unfold State.vramByte; split <;> rfl
@[simp] theorem State.vramByte_objs (s : State) (off : Nat) :
    ((s.vramByte off).2).objs = s.objs := by
  unfold State.vramByte; split <;> rfl
@[simp] theorem State.vramByte_k (s : State) (off : Nat) :
    ((s.vramByte off).2).k = s.k := by
  unfold State.vramByte; split <;> rfl
@[simp] theorem State.vramByte_layers (s : State) (off : Nat) :
    ((s.vramByte off).2).layers = s.layers := by
  unfold State.vramByte; split <;> rfl
@[simp] theorem State.vramByte_x2 (s : State) (off : Nat) :
    ((s.vramByte off).2).x2 = s.x2 := by
  unfold State.vramByte; split <;> rfl
@[simp] theorem State.vramByte_y2 (s : State) (off : Nat) :
    ((s.vramByte off).2).y2 = s.y2 := by
  unfold State.vramByte; split <;> rfl
@[simp] theorem State.vramByte_x3 (s : State) (off : Nat) :
    ((s.vramByte off).2).x3 = s.x3 := by
  unfold State.vramByte; split <;> rfl
@[simp] theorem State.vramByte_y3 (s : State) (off : Nat) :
    ((s.vramByte off).2).y3 = s.y3 := by
  unfold State.vramByte; split <;> rfl
@[simp] theorem State.vramByte_fault (s : State) (off : Nat) :
    ((s.vramByte off).2).fault = s.fault := by
  unfold State.vramByte; split <;> rfl
@[simp] theorem State.vramByte_seq (s : State) (off : Nat) :
    ((s.vramByte off).2).seq = s.seq := by
  unfold State.vramByte; split <;> rfl
@[simp] theorem State.vramByte_sink (s : State) (off : Nat) :
    ((s.vramByte off).2).sink = s.sink := by
  unfold State.vramByte; split <;> rfl
@[simp] theorem State.vramByte_host (s : State) (off : Nat) :
    ((s.vramByte off).2).host = s.host := by
  unfold State.vramByte; split <;> rfl

/-! ### texel4 -/

@[simp] theorem State.texel4_cfg (s : State) (sp : Space) (rowoff px : Nat) :
    ((s.texel4 sp rowoff px).2).cfg = s.cfg := by
  simp [State.texel4]
@[simp] theorem State.texel4_mem (s : State) (sp : Space) (rowoff px : Nat) :
    ((s.texel4 sp rowoff px).2).mem = s.mem := by
  simp [State.texel4]
@[simp] theorem State.texel4_row (s : State) (sp : Space) (rowoff px : Nat) :
    ((s.texel4 sp rowoff px).2).row = s.row := by
  simp [State.texel4]
@[simp] theorem State.texel4_objs (s : State) (sp : Space) (rowoff px : Nat) :
    ((s.texel4 sp rowoff px).2).objs = s.objs := by
  simp [State.texel4]
@[simp] theorem State.texel4_k (s : State) (sp : Space) (rowoff px : Nat) :
    ((s.texel4 sp rowoff px).2).k = s.k := by
  simp [State.texel4]
@[simp] theorem State.texel4_layers (s : State) (sp : Space) (rowoff px : Nat) :
    ((s.texel4 sp rowoff px).2).layers = s.layers := by
  simp [State.texel4]
@[simp] theorem State.texel4_x2 (s : State) (sp : Space) (rowoff px : Nat) :
    ((s.texel4 sp rowoff px).2).x2 = s.x2 := by
  simp [State.texel4]
@[simp] theorem State.texel4_y2 (s : State) (sp : Space) (rowoff px : Nat) :
    ((s.texel4 sp rowoff px).2).y2 = s.y2 := by
  simp [State.texel4]
@[simp] theorem State.texel4_x3 (s : State) (sp : Space) (rowoff px : Nat) :
    ((s.texel4 sp rowoff px).2).x3 = s.x3 := by
  simp [State.texel4]
@[simp] theorem State.texel4_y3 (s : State) (sp : Space) (rowoff px : Nat) :
    ((s.texel4 sp rowoff px).2).y3 = s.y3 := by
  simp [State.texel4]
@[simp] theorem State.texel4_fault (s : State) (sp : Space) (rowoff px : Nat) :
    ((s.texel4 sp rowoff px).2).fault = s.fault := by
  simp [State.texel4]
@[simp] theorem State.texel4_seq (s : State) (sp : Space) (rowoff px : Nat) :
    ((s.texel4 sp rowoff px).2).seq = s.seq := by
  simp [State.texel4]
@[simp] theorem State.texel4_sink (s : State) (sp : Space) (rowoff px : Nat) :
    ((s.texel4 sp rowoff px).2).sink = s.sink := by
  simp [State.texel4]
@[simp] theorem State.texel4_host (s : State) (sp : Space) (rowoff px : Nat) :
    ((s.texel4 sp rowoff px).2).host = s.host := by
  simp [State.texel4]

/-! ### texel8 -/

@[simp] theorem State.texel8_cfg (s : State) (sp : Space) (rowoff px : Nat) :
    ((s.texel8 sp rowoff px).2).cfg = s.cfg := by
  simp [State.texel8]
@[simp] theorem State.texel8_mem (s : State) (sp : Space) (rowoff px : Nat) :
    ((s.texel8 sp rowoff px).2).mem = s.mem := by
  simp [State.texel8]
@[simp] theorem State.texel8_row (s : State) (sp : Space) (rowoff px : Nat) :
    ((s.texel8 sp rowoff px).2).row = s.row := by
  simp [State.texel8]
@[simp] theorem State.texel8_objs (s : State) (sp : Space) (rowoff px : Nat) :
    ((s.texel8 sp rowoff px).2).objs = s.objs := by
  simp [State.texel8]
@[simp] theorem State.texel8_k (s : State) (sp : Space) (rowoff px : Nat) :
    ((s.texel8 sp rowoff px).2).k = s.k := by
  simp [State.texel8]
@[simp] theorem State.texel8_layers (s : State) (sp : Space) (rowoff px : Nat) :
    ((s.texel8 sp rowoff px).2).layers = s.layers := by
  simp [State.texel8]
@[simp] theorem State.texel8_x2 (s : State) (sp : Space) (rowoff px : Nat) :
    ((s.texel8 sp rowoff px).2).x2 = s.x2 := by
  simp [State.texel8]
@[simp] theorem State.texel8_y2 (s : State) (sp : Space) (rowoff px : Nat) :
    ((s.texel8 sp rowoff px).2).y2 = s.y2 := by
  simp [State.texel8]
@[simp] theorem State.texel8_x3 (s : State) (sp : Space) (rowoff px : Nat) :
    ((s.texel8 sp rowoff px).2).x3 = s.x3 := by
  simp [State.texel8]
@[simp] theorem State.texel8_y3 (s : State) (sp : Space) (rowoff px : Nat) :
    ((s.texel8 sp rowoff px).2).y3 = s.y3 := by
  simp [State.texel8]
@[simp] theorem State.texel8_fault (s : State) (sp : Space) (rowoff px : Nat) :
    ((s.texel8 sp rowoff px).2).fault = s.fault := by
  simp [State.texel8]
@[simp] theorem State.texel8_seq (s : State) (sp : Space) (rowoff px : Nat) :
    ((s.texel8 sp rowoff px).2).seq = s.seq := by
  simp [State.texel8]
@[simp] theorem State.texel8_sink (s : State) (sp : Space) (rowoff px : Nat) :
    ((s.texel8 sp rowoff px).2).sink = s.sink := by
  simp [State.texel8]
@[simp] theorem State.texel8_host (s : State) (sp : Space) (rowoff px : Nat) :
    ((s.texel8 sp rowoff px).2).host = s.host := by
  simp [State.texel8]

/-! ### bgTexel4 -/

@[simp] theorem State.bgTexel4_cfg (s : State) (cbb : BitVec 2) (tile : BitVec 10) (px py : Fin 8) :
    ((s.bgTexel4 cbb tile px py ).2).cfg = s.cfg := by
  simp [State.bgTexel4]
@[simp] theorem State.bgTexel4_mem (s : State) (cbb : BitVec 2) (tile : BitVec 10) (px py : Fin 8) :
    ((s.bgTexel4 cbb tile px py ).2).mem = s.mem := by
  simp [State.bgTexel4]
@[simp] theorem State.bgTexel4_row (s : State) (cbb : BitVec 2) (tile : BitVec 10) (px py : Fin 8) :
    ((s.bgTexel4 cbb tile px py ).2).row = s.row := by
  simp [State.bgTexel4]
@[simp] theorem State.bgTexel4_objs (s : State) (cbb : BitVec 2) (tile : BitVec 10) (px py : Fin 8) :
    ((s.bgTexel4 cbb tile px py ).2).objs = s.objs := by
  simp [State.bgTexel4]
@[simp] theorem State.bgTexel4_k (s : State) (cbb : BitVec 2) (tile : BitVec 10) (px py : Fin 8) :
    ((s.bgTexel4 cbb tile px py ).2).k = s.k := by
  simp [State.bgTexel4]
@[simp] theorem State.bgTexel4_layers (s : State) (cbb : BitVec 2) (tile : BitVec 10) (px py : Fin 8) :
    ((s.bgTexel4 cbb tile px py ).2).layers = s.layers := by
  simp [State.bgTexel4]
@[simp] theorem State.bgTexel4_x2 (s : State) (cbb : BitVec 2) (tile : BitVec 10) (px py : Fin 8) :
    ((s.bgTexel4 cbb tile px py ).2).x2 = s.x2 := by
  simp [State.bgTexel4]
@[simp] theorem State.bgTexel4_y2 (s : State) (cbb : BitVec 2) (tile : BitVec 10) (px py : Fin 8) :
    ((s.bgTexel4 cbb tile px py ).2).y2 = s.y2 := by
  simp [State.bgTexel4]
@[simp] theorem State.bgTexel4_x3 (s : State) (cbb : BitVec 2) (tile : BitVec 10) (px py : Fin 8) :
    ((s.bgTexel4 cbb tile px py ).2).x3 = s.x3 := by
  simp [State.bgTexel4]
@[simp] theorem State.bgTexel4_y3 (s : State) (cbb : BitVec 2) (tile : BitVec 10) (px py : Fin 8) :
    ((s.bgTexel4 cbb tile px py ).2).y3 = s.y3 := by
  simp [State.bgTexel4]
@[simp] theorem State.bgTexel4_fault (s : State) (cbb : BitVec 2) (tile : BitVec 10) (px py : Fin 8) :
    ((s.bgTexel4 cbb tile px py ).2).fault = s.fault := by
  simp [State.bgTexel4]
@[simp] theorem State.bgTexel4_seq (s : State) (cbb : BitVec 2) (tile : BitVec 10) (px py : Fin 8) :
    ((s.bgTexel4 cbb tile px py ).2).seq = s.seq := by
  simp [State.bgTexel4]
@[simp] theorem State.bgTexel4_sink (s : State) (cbb : BitVec 2) (tile : BitVec 10) (px py : Fin 8) :
    ((s.bgTexel4 cbb tile px py ).2).sink = s.sink := by
  simp [State.bgTexel4]
@[simp] theorem State.bgTexel4_host (s : State) (cbb : BitVec 2) (tile : BitVec 10) (px py : Fin 8) :
    ((s.bgTexel4 cbb tile px py ).2).host = s.host := by
  simp [State.bgTexel4]

/-! ### bgTexel8 -/

@[simp] theorem State.bgTexel8_cfg (s : State) (cbb : BitVec 2) (tile : BitVec 10) (px py : Fin 8) :
    ((s.bgTexel8 cbb tile px py ).2).cfg = s.cfg := by
  simp [State.bgTexel8]
@[simp] theorem State.bgTexel8_mem (s : State) (cbb : BitVec 2) (tile : BitVec 10) (px py : Fin 8) :
    ((s.bgTexel8 cbb tile px py ).2).mem = s.mem := by
  simp [State.bgTexel8]
@[simp] theorem State.bgTexel8_row (s : State) (cbb : BitVec 2) (tile : BitVec 10) (px py : Fin 8) :
    ((s.bgTexel8 cbb tile px py ).2).row = s.row := by
  simp [State.bgTexel8]
@[simp] theorem State.bgTexel8_objs (s : State) (cbb : BitVec 2) (tile : BitVec 10) (px py : Fin 8) :
    ((s.bgTexel8 cbb tile px py ).2).objs = s.objs := by
  simp [State.bgTexel8]
@[simp] theorem State.bgTexel8_k (s : State) (cbb : BitVec 2) (tile : BitVec 10) (px py : Fin 8) :
    ((s.bgTexel8 cbb tile px py ).2).k = s.k := by
  simp [State.bgTexel8]
@[simp] theorem State.bgTexel8_layers (s : State) (cbb : BitVec 2) (tile : BitVec 10) (px py : Fin 8) :
    ((s.bgTexel8 cbb tile px py ).2).layers = s.layers := by
  simp [State.bgTexel8]
@[simp] theorem State.bgTexel8_x2 (s : State) (cbb : BitVec 2) (tile : BitVec 10) (px py : Fin 8) :
    ((s.bgTexel8 cbb tile px py ).2).x2 = s.x2 := by
  simp [State.bgTexel8]
@[simp] theorem State.bgTexel8_y2 (s : State) (cbb : BitVec 2) (tile : BitVec 10) (px py : Fin 8) :
    ((s.bgTexel8 cbb tile px py ).2).y2 = s.y2 := by
  simp [State.bgTexel8]
@[simp] theorem State.bgTexel8_x3 (s : State) (cbb : BitVec 2) (tile : BitVec 10) (px py : Fin 8) :
    ((s.bgTexel8 cbb tile px py ).2).x3 = s.x3 := by
  simp [State.bgTexel8]
@[simp] theorem State.bgTexel8_y3 (s : State) (cbb : BitVec 2) (tile : BitVec 10) (px py : Fin 8) :
    ((s.bgTexel8 cbb tile px py ).2).y3 = s.y3 := by
  simp [State.bgTexel8]
@[simp] theorem State.bgTexel8_fault (s : State) (cbb : BitVec 2) (tile : BitVec 10) (px py : Fin 8) :
    ((s.bgTexel8 cbb tile px py ).2).fault = s.fault := by
  simp [State.bgTexel8]
@[simp] theorem State.bgTexel8_seq (s : State) (cbb : BitVec 2) (tile : BitVec 10) (px py : Fin 8) :
    ((s.bgTexel8 cbb tile px py ).2).seq = s.seq := by
  simp [State.bgTexel8]
@[simp] theorem State.bgTexel8_sink (s : State) (cbb : BitVec 2) (tile : BitVec 10) (px py : Fin 8) :
    ((s.bgTexel8 cbb tile px py ).2).sink = s.sink := by
  simp [State.bgTexel8]
@[simp] theorem State.bgTexel8_host (s : State) (cbb : BitVec 2) (tile : BitVec 10) (px py : Fin 8) :
    ((s.bgTexel8 cbb tile px py ).2).host = s.host := by
  simp [State.bgTexel8]

/-! ### affTexel -/

@[simp] theorem State.affTexel_cfg (s : State) (base : Nat) (tile : BitVec 8) (px py : Fin 8) :
    ((s.affTexel base tile px py ).2).cfg = s.cfg := by
  simp [State.affTexel]
@[simp] theorem State.affTexel_mem (s : State) (base : Nat) (tile : BitVec 8) (px py : Fin 8) :
    ((s.affTexel base tile px py ).2).mem = s.mem := by
  simp [State.affTexel]
@[simp] theorem State.affTexel_row (s : State) (base : Nat) (tile : BitVec 8) (px py : Fin 8) :
    ((s.affTexel base tile px py ).2).row = s.row := by
  simp [State.affTexel]
@[simp] theorem State.affTexel_objs (s : State) (base : Nat) (tile : BitVec 8) (px py : Fin 8) :
    ((s.affTexel base tile px py ).2).objs = s.objs := by
  simp [State.affTexel]
@[simp] theorem State.affTexel_k (s : State) (base : Nat) (tile : BitVec 8) (px py : Fin 8) :
    ((s.affTexel base tile px py ).2).k = s.k := by
  simp [State.affTexel]
@[simp] theorem State.affTexel_layers (s : State) (base : Nat) (tile : BitVec 8) (px py : Fin 8) :
    ((s.affTexel base tile px py ).2).layers = s.layers := by
  simp [State.affTexel]
@[simp] theorem State.affTexel_x2 (s : State) (base : Nat) (tile : BitVec 8) (px py : Fin 8) :
    ((s.affTexel base tile px py ).2).x2 = s.x2 := by
  simp [State.affTexel]
@[simp] theorem State.affTexel_y2 (s : State) (base : Nat) (tile : BitVec 8) (px py : Fin 8) :
    ((s.affTexel base tile px py ).2).y2 = s.y2 := by
  simp [State.affTexel]
@[simp] theorem State.affTexel_x3 (s : State) (base : Nat) (tile : BitVec 8) (px py : Fin 8) :
    ((s.affTexel base tile px py ).2).x3 = s.x3 := by
  simp [State.affTexel]
@[simp] theorem State.affTexel_y3 (s : State) (base : Nat) (tile : BitVec 8) (px py : Fin 8) :
    ((s.affTexel base tile px py ).2).y3 = s.y3 := by
  simp [State.affTexel]
@[simp] theorem State.affTexel_fault (s : State) (base : Nat) (tile : BitVec 8) (px py : Fin 8) :
    ((s.affTexel base tile px py ).2).fault = s.fault := by
  simp [State.affTexel]
@[simp] theorem State.affTexel_seq (s : State) (base : Nat) (tile : BitVec 8) (px py : Fin 8) :
    ((s.affTexel base tile px py ).2).seq = s.seq := by
  simp [State.affTexel]
@[simp] theorem State.affTexel_sink (s : State) (base : Nat) (tile : BitVec 8) (px py : Fin 8) :
    ((s.affTexel base tile px py ).2).sink = s.sink := by
  simp [State.affTexel]
@[simp] theorem State.affTexel_host (s : State) (base : Nat) (tile : BitVec 8) (px py : Fin 8) :
    ((s.affTexel base tile px py ).2).host = s.host := by
  simp [State.affTexel]

/-! ### objTexel4 -/

@[simp] theorem State.objTexel4_cfg (s : State) (tn px py : Nat) :
    ((s.objTexel4 tn px py ).2).cfg = s.cfg := by
  simp [State.objTexel4]
@[simp] theorem State.objTexel4_mem (s : State) (tn px py : Nat) :
    ((s.objTexel4 tn px py ).2).mem = s.mem := by
  simp [State.objTexel4]
@[simp] theorem State.objTexel4_row (s : State) (tn px py : Nat) :
    ((s.objTexel4 tn px py ).2).row = s.row := by
  simp [State.objTexel4]
@[simp] theorem State.objTexel4_objs (s : State) (tn px py : Nat) :
    ((s.objTexel4 tn px py ).2).objs = s.objs := by
  simp [State.objTexel4]
@[simp] theorem State.objTexel4_k (s : State) (tn px py : Nat) :
    ((s.objTexel4 tn px py ).2).k = s.k := by
  simp [State.objTexel4]
@[simp] theorem State.objTexel4_layers (s : State) (tn px py : Nat) :
    ((s.objTexel4 tn px py ).2).layers = s.layers := by
  simp [State.objTexel4]
@[simp] theorem State.objTexel4_x2 (s : State) (tn px py : Nat) :
    ((s.objTexel4 tn px py ).2).x2 = s.x2 := by
  simp [State.objTexel4]
@[simp] theorem State.objTexel4_y2 (s : State) (tn px py : Nat) :
    ((s.objTexel4 tn px py ).2).y2 = s.y2 := by
  simp [State.objTexel4]
@[simp] theorem State.objTexel4_x3 (s : State) (tn px py : Nat) :
    ((s.objTexel4 tn px py ).2).x3 = s.x3 := by
  simp [State.objTexel4]
@[simp] theorem State.objTexel4_y3 (s : State) (tn px py : Nat) :
    ((s.objTexel4 tn px py ).2).y3 = s.y3 := by
  simp [State.objTexel4]
@[simp] theorem State.objTexel4_fault (s : State) (tn px py : Nat) :
    ((s.objTexel4 tn px py ).2).fault = s.fault := by
  simp [State.objTexel4]
@[simp] theorem State.objTexel4_seq (s : State) (tn px py : Nat) :
    ((s.objTexel4 tn px py ).2).seq = s.seq := by
  simp [State.objTexel4]
@[simp] theorem State.objTexel4_sink (s : State) (tn px py : Nat) :
    ((s.objTexel4 tn px py ).2).sink = s.sink := by
  simp [State.objTexel4]
@[simp] theorem State.objTexel4_host (s : State) (tn px py : Nat) :
    ((s.objTexel4 tn px py ).2).host = s.host := by
  simp [State.objTexel4]

/-! ### objTexel8 -/

@[simp] theorem State.objTexel8_cfg (s : State) (tn px py : Nat) :
    ((s.objTexel8 tn px py ).2).cfg = s.cfg := by
  simp [State.objTexel8]
@[simp] theorem State.objTexel8_mem (s : State) (tn px py : Nat) :
    ((s.objTexel8 tn px py ).2).mem = s.mem := by
  simp [State.objTexel8]
@[simp] theorem State.objTexel8_row (s : State) (tn px py : Nat) :
    ((s.objTexel8 tn px py ).2).row = s.row := by
  simp [State.objTexel8]
@[simp] theorem State.objTexel8_objs (s : State) (tn px py : Nat) :
    ((s.objTexel8 tn px py ).2).objs = s.objs := by
  simp [State.objTexel8]
@[simp] theorem State.objTexel8_k (s : State) (tn px py : Nat) :
    ((s.objTexel8 tn px py ).2).k = s.k := by
  simp [State.objTexel8]
@[simp] theorem State.objTexel8_layers (s : State) (tn px py : Nat) :
    ((s.objTexel8 tn px py ).2).layers = s.layers := by
  simp [State.objTexel8]
@[simp] theorem State.objTexel8_x2 (s : State) (tn px py : Nat) :
    ((s.objTexel8 tn px py ).2).x2 = s.x2 := by
  simp [State.objTexel8]
@[simp] theorem State.objTexel8_y2 (s : State) (tn px py : Nat) :
    ((s.objTexel8 tn px py ).2).y2 = s.y2 := by
  simp [State.objTexel8]
@[simp] theorem State.objTexel8_x3 (s : State) (tn px py : Nat) :
    ((s.objTexel8 tn px py ).2).x3 = s.x3 := by
  simp [State.objTexel8]
@[simp] theorem State.objTexel8_y3 (s : State) (tn px py : Nat) :
    ((s.objTexel8 tn px py ).2).y3 = s.y3 := by
  simp [State.objTexel8]
@[simp] theorem State.objTexel8_fault (s : State) (tn px py : Nat) :
    ((s.objTexel8 tn px py ).2).fault = s.fault := by
  simp [State.objTexel8]
@[simp] theorem State.objTexel8_seq (s : State) (tn px py : Nat) :
    ((s.objTexel8 tn px py ).2).seq = s.seq := by
  simp [State.objTexel8]
@[simp] theorem State.objTexel8_sink (s : State) (tn px py : Nat) :
    ((s.objTexel8 tn px py ).2).sink = s.sink := by
  simp [State.objTexel8]
@[simp] theorem State.objTexel8_host (s : State) (tn px py : Nat) :
    ((s.objTexel8 tn px py ).2).host = s.host := by
  simp [State.objTexel8]

/-! ### plotIndex -/

@[simp] theorem State.plotIndex_cfg (s : State) (c : Fin 240) (idx : Byte) (col : Color15) (top bot : Bool) :
    (s.plotIndex c idx col top bot).cfg = s.cfg := by
  unfold State.plotIndex; split <;> rfl
@[simp] theorem State.plotIndex_mem (s : State) (c : Fin 240) (idx : Byte) (col : Color15) (top bot : Bool) :
    (s.plotIndex c idx col top bot).mem = s.mem := by
  unfold State.plotIndex; split <;> rfl
@[simp] theorem State.plotIndex_objs (s : State) (c : Fin 240) (idx : Byte) (col : Color15) (top bot : Bool) :
    (s.plotIndex c idx col top bot).objs = s.objs := by
  unfold State.plotIndex; split <;> rfl
@[simp] theorem State.plotIndex_k (s : State) (c : Fin 240) (idx : Byte) (col : Color15) (top bot : Bool) :
    (s.plotIndex c idx col top bot).k = s.k := by
  unfold State.plotIndex; split <;> rfl
@[simp] theorem State.plotIndex_layers (s : State) (c : Fin 240) (idx : Byte) (col : Color15) (top bot : Bool) :
    (s.plotIndex c idx col top bot).layers = s.layers := by
  unfold State.plotIndex; split <;> rfl
@[simp] theorem State.plotIndex_x2 (s : State) (c : Fin 240) (idx : Byte) (col : Color15) (top bot : Bool) :
    (s.plotIndex c idx col top bot).x2 = s.x2 := by
  unfold State.plotIndex; split <;> rfl
@[simp] theorem State.plotIndex_y2 (s : State) (c : Fin 240) (idx : Byte) (col : Color15) (top bot : Bool) :
    (s.plotIndex c idx col top bot).y2 = s.y2 := by
  unfold State.plotIndex; split <;> rfl
@[simp] theorem State.plotIndex_x3 (s : State) (c : Fin 240) (idx : Byte) (col : Color15) (top bot : Bool) :
    (s.plotIndex c idx col top bot).x3 = s.x3 := by
  unfold State.plotIndex; split <;> rfl
@[simp] theorem State.plotIndex_y3 (s : State) (c : Fin 240) (idx : Byte) (col : Color15) (top bot : Bool) :
    (s.plotIndex c idx col top bot).y3 = s.y3 := by
  unfold State.plotIndex; split <;> rfl
@[simp] theorem State.plotIndex_fault (s : State) (c : Fin 240) (idx : Byte) (col : Color15) (top bot : Bool) :
    (s.plotIndex c idx col top bot).fault = s.fault := by
  unfold State.plotIndex; split <;> rfl
@[simp] theorem State.plotIndex_seq (s : State) (c : Fin 240) (idx : Byte) (col : Color15) (top bot : Bool) :
    (s.plotIndex c idx col top bot).seq = s.seq := by
  unfold State.plotIndex; split <;> rfl
@[simp] theorem State.plotIndex_sink (s : State) (c : Fin 240) (idx : Byte) (col : Color15) (top bot : Bool) :
    (s.plotIndex c idx col top bot).sink = s.sink := by
  unfold State.plotIndex; split <;> rfl
@[simp] theorem State.plotIndex_host (s : State) (c : Fin 240) (idx : Byte) (col : Color15) (top bot : Bool) :
    (s.plotIndex c idx col top bot).host = s.host := by
  unfold State.plotIndex; split <;> rfl
@[simp] theorem State.plotIndex_oobReads (s : State) (c : Fin 240) (idx : Byte) (col : Color15) (top bot : Bool) :
    (s.plotIndex c idx col top bot).oobReads = s.oobReads := by
  unfold State.plotIndex; split <;> rfl

/-! ### plotBg -/

@[simp] theorem State.plotBg_cfg (s : State) (n : Fin 4) (c : Fin 240) (idx : Byte) (col : Color15) :
    (s.plotBg n c idx col).cfg = s.cfg := by
  simp [State.plotBg]
@[simp] theorem State.plotBg_mem (s : State) (n : Fin 4) (c : Fin 240) (idx : Byte) (col : Color15) :
    (s.plotBg n c idx col).mem = s.mem := by
  simp [State.plotBg]
@[simp] theorem State.plotBg_objs (s : State) (n : Fin 4) (c : Fin 240) (idx : Byte) (col : Color15) :
    (s.plotBg n c idx col).objs = s.objs := by
  simp [State.plotBg]
@[simp] theorem State.plotBg_k (s : State) (n : Fin 4) (c : Fin 240) (idx : Byte) (col : Color15) :
    (s.plotBg n c idx col).k = s.k := by
  simp [State.plotBg]
@[simp] theorem State.plotBg_layers (s : State) (n : Fin 4) (c : Fin 240) (idx : Byte) (col : Color15) :
    (s.plotBg n c idx col).layers = s.layers := by
  simp [State.plotBg]
@[simp] theorem State.plotBg_x2 (s : State) (n : Fin 4) (c : Fin 240) (idx : Byte) (col : Color15) :
    (s.plotBg n c idx col).x2 = s.x2 := by
  simp [State.plotBg]
@[simp] theorem State.plotBg_y2 (s : State) (n : Fin 4) (c : Fin 240) (idx : Byte) (col : Color15) :
    (s.plotBg n c idx col).y2 = s.y2 := by
  simp [State.plotBg]
@[simp] theorem State.plotBg_x3 (s : State) (n : Fin 4) (c : Fin 240) (idx : Byte) (col : Color15) :
    (s.plotBg n c idx col).x3 = s.x3 := by
  simp [State.plotBg]
@[simp] theorem State.plotBg_y3 (s : State) (n : Fin 4) (c : Fin 240) (idx : Byte) (col : Color15) :
    (s.plotBg n c idx col).y3 = s.y3 := by
  simp [State.plotBg]
@[simp] theorem State.plotBg_fault (s : State) (n : Fin 4) (c : Fin 240) (idx : Byte) (col : Color15) :
    (s.plotBg n c idx col).fault = s.fault := by
  simp [State.plotBg]
@[simp] theorem State.plotBg_seq (s : State) (n : Fin 4) (c : Fin 240) (idx : Byte) (col : Color15) :
    (s.plotBg n c idx col).seq = s.seq := by
  simp [State.plotBg]
@[simp] theorem State.plotBg_sink (s : State) (n : Fin 4) (c : Fin 240) (idx : Byte) (col : Color15) :
    (s.plotBg n c idx col).sink = s.sink := by
  simp [State.plotBg]
@[simp] theorem State.plotBg_host (s : State) (n : Fin 4) (c : Fin 240) (idx : Byte) (col : Color15) :
    (s.plotBg n c idx col).host = s.host := by
  simp [State.plotBg]
@[simp] theorem State.plotBg_oobReads (s : State) (n : Fin 4) (c : Fin 240) (idx : Byte) (col : Color15) :
    (s.plotBg n c idx col).oobReads = s.oobReads := by
  simp [State.plotBg]

/-! ### plotObj -/

@[simp] theorem State.plotObj_cfg (s : State) (c : Fin 240) (idx : Byte) (col : Color15) :
    (s.plotObj c idx col).cfg = s.cfg := by
  simp [State.plotObj]
@[simp] theorem State.plotObj_mem (s : State) (c : Fin 240) (idx : Byte) (col : Color15) :
    (s.plotObj c idx col).mem = s.mem := by
  simp [State.plotObj]
@[simp] theorem State.plotObj_objs (s : State) (c : Fin 240) (idx : Byte) (col : Color15) :
    (s.plotObj c idx col).objs = s.objs := by
  simp [State.plotObj]
@[simp] theorem State.plotObj_k (s : State) (c : Fin 240) (idx : Byte) (col : Color15) :
    (s.plotObj c idx col).k = s.k := by
  simp [State.plotObj]
@[simp] theorem State.plotObj_layers (s : State) (c : Fin 240) (idx : Byte) (col : Color15) :
    (s.plotObj c idx col).layers = s.layers := by
  simp [State.plotObj]
@[simp] theorem State.plotObj_x2 (s : State) (c : Fin 240) (idx : Byte) (col : Color15) :
    (s.plotObj c idx col).x2 = s.x2 := by
  simp [State.plotObj]
@[simp] theorem State.plotObj_y2 (s : State) (c : Fin 240) (idx : Byte) (col : Color15) :
    (s.plotObj c idx col).y2 = s.y2 := by
  simp [State.plotObj]
@[simp] theorem State.plotObj_x3 (s : State) (c : Fin 240) (idx : Byte) (col : Color15) :
    (s.plotObj c idx col).x3 = s.x3 := by
  simp [State.plotObj]
@[simp] theorem State.plotObj_y3 (s : State) (c : Fin 240) (idx : Byte) (col : Color15) :
    (s.plotObj c idx col).y3 = s.y3 := by
  simp [State.plotObj]
@[simp] theorem State.plotObj_fault (s : State) (c : Fin 240) (idx : Byte) (col : Color15) :
    (s.plotObj c idx col).fault = s.fault := by
  simp [State.plotObj]
@[simp] theorem State.plotObj_seq (s : State) (c : Fin 240) (idx : Byte) (col : Color15) :
    (s.plotObj c idx col).seq = s.seq := by
  simp [State.plotObj]
@[simp] theorem State.plotObj_sink (s : State) (c : Fin 240) (idx : Byte) (col : Color15) :
    (s.plotObj c idx col).sink = s.sink := by
  simp [State.plotObj]
@[simp] theorem State.plotObj_host (s : State) (c : Fin 240) (idx : Byte) (col : Color15) :
    (s.plotObj c idx col).host = s.host := by
  simp [State.plotObj]
@[simp] theorem State.plotObj_oobReads (s : State) (c : Fin 240) (idx : Byte) (col : Color15) :
    (s.plotObj c idx col).oobReads = s.oobReads := by
  simp [State.plotObj]

/-! ### startDraw -/

@[simp] theorem State.startDraw_cfg (s : State) (l : Fin 160) (j : Nat) :
    (s.startDraw l j).cfg = s.cfg := rfl
@[simp] theorem State.startDraw_mem (s : State) (l : Fin 160) (j : Nat) :
    (s.startDraw l j).mem = s.mem := rfl
@[simp] theorem State.startDraw_row (s : State) (l : Fin 160) (j : Nat) :
    (s.startDraw l j).row = s.row := rfl
@[simp] theorem State.startDraw_objs (s : State) (l : Fin 160) (j : Nat) :
    (s.startDraw l j).objs = s.objs := rfl
@[simp] theorem State.startDraw_k (s : State) (l : Fin 160) (j : Nat) :
    (s.startDraw l j).k = s.k := rfl
@[simp] theorem State.startDraw_x2 (s : State) (l : Fin 160) (j : Nat) :
    (s.startDraw l j).x2 = s.x2 := rfl
@[simp] theorem State.startDraw_y2 (s : State) (l : Fin 160) (j : Nat) :
    (s.startDraw l j).y2 = s.y2 := rfl
@[simp] theorem State.startDraw_x3 (s : State) (l : Fin 160) (j : Nat) :
    (s.startDraw l j).x3 = s.x3 := rfl
@[simp] theorem State.startDraw_y3 (s : State) (l : Fin 160) (j : Nat) :
    (s.startDraw l j).y3 = s.y3 := rfl
@[simp] theorem State.startDraw_fault (s : State) (l : Fin 160) (j : Nat) :
    (s.startDraw l j).fault = s.fault := rfl
@[simp] theorem State.startDraw_sink (s : State) (l : Fin 160) (j : Nat) :
    (s.startDraw l j).sink = s.sink := rfl
@[simp] theorem State.startDraw_host (s : State) (l : Fin 160) (j : Nat) :
    (s.startDraw l j).host = s.host := rfl
@[simp] theorem State.startDraw_oobReads (s : State) (l : Fin 160) (j : Nat) :
    (s.startDraw l j).oobReads = s.oobReads := rfl

/-! ### endLayer -/

@[simp] theorem State.endLayer_cfg (s : State) (l : Fin 160) (j : Nat) :
    (s.endLayer l j).cfg = s.cfg := rfl
@[simp] theorem State.endLayer_mem (s : State) (l : Fin 160) (j : Nat) :
    (s.endLayer l j).mem = s.mem := rfl
@[simp] theorem State.endLayer_row (s : State) (l : Fin 160) (j : Nat) :
    (s.endLayer l j).row = s.row := rfl
@[simp] theorem State.endLayer_objs (s : State) (l : Fin 160) (j : Nat) :
    (s.endLayer l j).objs = s.objs := rfl
@[simp] theorem State.endLayer_k (s : State) (l : Fin 160) (j : Nat) :
    (s.endLayer l j).k = s.k := rfl
@[simp] theorem State.endLayer_x2 (s : State) (l : Fin 160) (j : Nat) :
    (s.endLayer l j).x2 = s.x2 := rfl
@[simp] theorem State.endLayer_y2 (s : State) (l : Fin 160) (j : Nat) :
    (s.endLayer l j).y2 = s.y2 := rfl
@[simp] theorem State.endLayer_x3 (s : State) (l : Fin 160) (j : Nat) :
    (s.endLayer l j).x3 = s.x3 := rfl
@[simp] theorem State.endLayer_y3 (s : State) (l : Fin 160) (j : Nat) :
    (s.endLayer l j).y3 = s.y3 := rfl
@[simp] theorem State.endLayer_fault (s : State) (l : Fin 160) (j : Nat) :
    (s.endLayer l j).fault = s.fault := rfl
@[simp] theorem State.endLayer_sink (s : State) (l : Fin 160) (j : Nat) :
    (s.endLayer l j).sink = s.sink := rfl
@[simp] theorem State.endLayer_host (s : State) (l : Fin 160) (j : Nat) :
    (s.endLayer l j).host = s.host := rfl
@[simp] theorem State.endLayer_oobReads (s : State) (l : Fin 160) (j : Nat) :
    (s.endLayer l j).oobReads = s.oobReads := rfl

/-! ### endObj -/

@[simp] theorem State.endObj_cfg (s : State) (l : Fin 160) (j : Nat) :
    (s.endObj l j).cfg = s.cfg := rfl
@[simp] theorem State.endObj_mem (s : State) (l : Fin 160) (j : Nat) :
    (s.endObj l j).mem = s.mem := rfl
@[simp] theorem State.endObj_row (s : State) (l : Fin 160) (j : Nat) :
    (s.endObj l j).row = s.row := rfl
@[simp] theorem State.endObj_objs (s : State) (l : Fin 160) (j : Nat) :
    (s.endObj l j).objs = s.objs := rfl
@[simp] theorem State.endObj_x2 (s : State) (l : Fin 160) (j : Nat) :
    (s.endObj l j).x2 = s.x2 := rfl
@[simp] theorem State.endObj_y2 (s : State) (l : Fin 160) (j : Nat) :
    (s.endObj l j).y2 = s.y2 := rfl
@[simp] theorem State.endObj_x3 (s : State) (l : Fin 160) (j : Nat) :
    (s.endObj l j).x3 = s.x3 := rfl
@[simp] theorem State.endObj_y3 (s : State) (l : Fin 160) (j : Nat) :
    (s.endObj l j).y3 = s.y3 := rfl
@[simp] theorem State.endObj_fault (s : State) (l : Fin 160) (j : Nat) :
    (s.endObj l j).fault = s.fault := rfl
@[simp] theorem State.endObj_sink (s : State) (l : Fin 160) (j : Nat) :
    (s.endObj l j).sink = s.sink := rfl
@[simp] theorem State.endObj_host (s : State) (l : Fin 160) (j : Nat) :
    (s.endObj l j).host = s.host := rfl
@[simp] theorem State.endObj_oobReads (s : State) (l : Fin 160) (j : Nat) :
    (s.endObj l j).oobReads = s.oobReads := rfl

/-! ### endTextCol -/

@[simp] theorem State.endTextCol_cfg (s : State) (l : Fin 160) (j : Nat) (n : Fin 4) (c : Fin 240) :
    (s.endTextCol l j n c).cfg = s.cfg := by
  unfold State.endTextCol; split <;> rfl
@[simp] theorem State.endTextCol_mem (s : State) (l : Fin 160) (j : Nat) (n : Fin 4) (c : Fin 240) :
    (s.endTextCol l j n c).mem = s.mem := by
  unfold State.endTextCol; split <;> rfl
@[simp] theorem State.endTextCol_row (s : State) (l : Fin 160) (j : Nat) (n : Fin 4) (c : Fin 240) :
    (s.endTextCol l j n c).row = s.row := by
  unfold State.endTextCol; split <;> rfl
@[simp] theorem State.endTextCol_objs (s : State) (l : Fin 160) (j : Nat) (n : Fin 4) (c : Fin 240) :
    (s.endTextCol l j n c).objs = s.objs := by
  unfold State.endTextCol; split <;> rfl
@[simp] theorem State.endTextCol_k (s : State) (l : Fin 160) (j : Nat) (n : Fin 4) (c : Fin 240) :
    (s.endTextCol l j n c).k = s.k := by
  unfold State.endTextCol; split <;> rfl
@[simp] theorem State.endTextCol_x2 (s : State) (l : Fin 160) (j : Nat) (n : Fin 4) (c : Fin 240) :
    (s.endTextCol l j n c).x2 = s.x2 := by
  unfold State.endTextCol; split <;> rfl
@[simp] theorem State.endTextCol_y2 (s : State) (l : Fin 160) (j : Nat) (n : Fin 4) (c : Fin 240) :
    (s.endTextCol l j n c).y2 = s.y2 := by
  unfold State.endTextCol; split <;> rfl
@[simp] theorem State.endTextCol_x3 (s : State) (l : Fin 160) (j : Nat) (n : Fin 4) (c : Fin 240) :
    (s.endTextCol l j n c).x3 = s.x3 := by
  unfold State.endTextCol; split <;> rfl
@[simp] theorem State.endTextCol_y3 (s : State) (l : Fin 160) (j : Nat) (n : Fin 4) (c : Fin 240) :
    (s.endTextCol l j n c).y3 = s.y3 := by
  unfold State.endTextCol; split <;> rfl
@[simp] theorem State.endTextCol_fault (s : State) (l : Fin 160) (j : Nat) (n : Fin 4) (c : Fin 240) :
    (s.endTextCol l j n c).fault = s.fault := by
  unfold State.endTextCol; split <;> rfl
@[simp] theorem State.endTextCol_sink (s : State) (l : Fin 160) (j : Nat) (n : Fin 4) (c : Fin 240) :
    (s.endTextCol l j n c).sink = s.sink := by
  unfold State.endTextCol; split <;> rfl
@[simp] theorem State.endTextCol_host (s : State) (l : Fin 160) (j : Nat) (n : Fin 4) (c : Fin 240) :
    (s.endTextCol l j n c).host = s.host := by
  unfold State.endTextCol; split <;> rfl
@[simp] theorem State.endTextCol_oobReads (s : State) (l : Fin 160) (j : Nat) (n : Fin 4) (c : Fin 240) :
    (s.endTextCol l j n c).oobReads = s.oobReads := by
  unfold State.endTextCol; split <;> rfl

/-! ### endAffCol -/

@[simp] theorem State.endAffCol_cfg (s : State) (l : Fin 160) (j : Nat) (n : AffLayer) (c : Fin 240) :
    (s.endAffCol l j n c).cfg = s.cfg := by
  unfold State.endAffCol; split <;> rfl
@[simp] theorem State.endAffCol_mem (s : State) (l : Fin 160) (j : Nat) (n : AffLayer) (c : Fin 240) :
    (s.endAffCol l j n c).mem = s.mem := by
  unfold State.endAffCol; split <;> rfl
@[simp] theorem State.endAffCol_row (s : State) (l : Fin 160) (j : Nat) (n : AffLayer) (c : Fin 240) :
    (s.endAffCol l j n c).row = s.row := by
  unfold State.endAffCol; split <;> rfl
@[simp] theorem State.endAffCol_objs (s : State) (l : Fin 160) (j : Nat) (n : AffLayer) (c : Fin 240) :
    (s.endAffCol l j n c).objs = s.objs := by
  unfold State.endAffCol; split <;> rfl
@[simp] theorem State.endAffCol_k (s : State) (l : Fin 160) (j : Nat) (n : AffLayer) (c : Fin 240) :
    (s.endAffCol l j n c).k = s.k := by
  unfold State.endAffCol; split <;> rfl
@[simp] theorem State.endAffCol_x2 (s : State) (l : Fin 160) (j : Nat) (n : AffLayer) (c : Fin 240) :
    (s.endAffCol l j n c).x2 = s.x2 := by
  unfold State.endAffCol; split <;> rfl
@[simp] theorem State.endAffCol_y2 (s : State) (l : Fin 160) (j : Nat) (n : AffLayer) (c : Fin 240) :
    (s.endAffCol l j n c).y2 = s.y2 := by
  unfold State.endAffCol; split <;> rfl
@[simp] theorem State.endAffCol_x3 (s : State) (l : Fin 160) (j : Nat) (n : AffLayer) (c : Fin 240) :
    (s.endAffCol l j n c).x3 = s.x3 := by
  unfold State.endAffCol; split <;> rfl
@[simp] theorem State.endAffCol_y3 (s : State) (l : Fin 160) (j : Nat) (n : AffLayer) (c : Fin 240) :
    (s.endAffCol l j n c).y3 = s.y3 := by
  unfold State.endAffCol; split <;> rfl
@[simp] theorem State.endAffCol_fault (s : State) (l : Fin 160) (j : Nat) (n : AffLayer) (c : Fin 240) :
    (s.endAffCol l j n c).fault = s.fault := by
  unfold State.endAffCol; split <;> rfl
@[simp] theorem State.endAffCol_sink (s : State) (l : Fin 160) (j : Nat) (n : AffLayer) (c : Fin 240) :
    (s.endAffCol l j n c).sink = s.sink := by
  unfold State.endAffCol; split <;> rfl
@[simp] theorem State.endAffCol_host (s : State) (l : Fin 160) (j : Nat) (n : AffLayer) (c : Fin 240) :
    (s.endAffCol l j n c).host = s.host := by
  unfold State.endAffCol; split <;> rfl
@[simp] theorem State.endAffCol_oobReads (s : State) (l : Fin 160) (j : Nat) (n : AffLayer) (c : Fin 240) :
    (s.endAffCol l j n c).oobReads = s.oobReads := by
  unfold State.endAffCol; split <;> rfl

/-! ### endObjCol -/

@[simp] theorem State.endObjCol_cfg (s : State) (l : Fin 160) (j : Nat) (o : ObjDesc) (ix : Nat) :
    (s.endObjCol l j o ix).cfg = s.cfg := by
  unfold State.endObjCol; split <;> rfl
@[simp] theorem State.endObjCol_mem (s : State) (l : Fin 160) (j : Nat) (o : ObjDesc) (ix : Nat) :
    (s.endObjCol l j o ix).mem = s.mem := by
  unfold State.endObjCol; split <;> rfl
@[simp] theorem State.endObjCol_row (s : State) (l : Fin 160) (j : Nat) (o : ObjDesc) (ix : Nat) :
    (s.endObjCol l j o ix).row = s.row := by
  unfold State.endObjCol; split <;> rfl
@[simp] theorem State.endObjCol_objs (s : State) (l : Fin 160) (j : Nat) (o : ObjDesc) (ix : Nat) :
    (s.endObjCol l j o ix).objs = s.objs := by
  unfold State.endObjCol; split <;> rfl
@[simp] theorem State.endObjCol_x2 (s : State) (l : Fin 160) (j : Nat) (o : ObjDesc) (ix : Nat) :
    (s.endObjCol l j o ix).x2 = s.x2 := by
  unfold State.endObjCol; split <;> rfl
@[simp] theorem State.endObjCol_y2 (s : State) (l : Fin 160) (j : Nat) (o : ObjDesc) (ix : Nat) :
    (s.endObjCol l j o ix).y2 = s.y2 := by
  unfold State.endObjCol; split <;> rfl
@[simp] theorem State.endObjCol_x3 (s : State) (l : Fin 160) (j : Nat) (o : ObjDesc) (ix : Nat) :
    (s.endObjCol l j o ix).x3 = s.x3 := by
  unfold State.endObjCol; split <;> rfl
@[simp] theorem State.endObjCol_y3 (s : State) (l : Fin 160) (j : Nat) (o : ObjDesc) (ix : Nat) :
    (s.endObjCol l j o ix).y3 = s.y3 := by
  unfold State.endObjCol; split <;> rfl
@[simp] theorem State.endObjCol_fault (s : State) (l : Fin 160) (j : Nat) (o : ObjDesc) (ix : Nat) :
    (s.endObjCol l j o ix).fault = s.fault := by
  unfold State.endObjCol; split <;> rfl
@[simp] theorem State.endObjCol_sink (s : State) (l : Fin 160) (j : Nat) (o : ObjDesc) (ix : Nat) :
    (s.endObjCol l j o ix).sink = s.sink := by
  unfold State.endObjCol; split <;> rfl
@[simp] theorem State.endObjCol_host (s : State) (l : Fin 160) (j : Nat) (o : ObjDesc) (ix : Nat) :
    (s.endObjCol l j o ix).host = s.host := by
  unfold State.endObjCol; split <;> rfl
@[simp] theorem State.endObjCol_oobReads (s : State) (l : Fin 160) (j : Nat) (o : ObjDesc) (ix : Nat) :
    (s.endObjCol l j o ix).oobReads = s.oobReads := by
  unfold State.endObjCol; split <;> rfl

/-! ### endSelect -/

@[simp] theorem State.endSelect_cfg (s : State) (l : Fin 160) :
    (s.endSelect l).cfg = s.cfg := rfl
@[simp] theorem State.endSelect_mem (s : State) (l : Fin 160) :
    (s.endSelect l).mem = s.mem := rfl
@[simp] theorem State.endSelect_row (s : State) (l : Fin 160) :
    (s.endSelect l).row = s.row := rfl
@[simp] theorem State.endSelect_x2 (s : State) (l : Fin 160) :
    (s.endSelect l).x2 = s.x2 := rfl
@[simp] theorem State.endSelect_y2 (s : State) (l : Fin 160) :
    (s.endSelect l).y2 = s.y2 := rfl
@[simp] theorem State.endSelect_x3 (s : State) (l : Fin 160) :
    (s.endSelect l).x3 = s.x3 := rfl
@[simp] theorem State.endSelect_y3 (s : State) (l : Fin 160) :
    (s.endSelect l).y3 = s.y3 := rfl
@[simp] theorem State.endSelect_fault (s : State) (l : Fin 160) :
    (s.endSelect l).fault = s.fault := rfl
@[simp] theorem State.endSelect_sink (s : State) (l : Fin 160) :
    (s.endSelect l).sink = s.sink := rfl
@[simp] theorem State.endSelect_host (s : State) (l : Fin 160) :
    (s.endSelect l).host = s.host := rfl
@[simp] theorem State.endSelect_oobReads (s : State) (l : Fin 160) :
    (s.endSelect l).oobReads = s.oobReads := rfl

/-! ### endEntry -/

@[simp] theorem State.endEntry_cfg (s : State) (l : Fin 160) (i : Fin 128) :
    (s.endEntry l i).cfg = s.cfg := by
  unfold State.endEntry; split <;> rfl
@[simp] theorem State.endEntry_mem (s : State) (l : Fin 160) (i : Fin 128) :
    (s.endEntry l i).mem = s.mem := by
  unfold State.endEntry; split <;> rfl
@[simp] theorem State.endEntry_row (s : State) (l : Fin 160) (i : Fin 128) :
    (s.endEntry l i).row = s.row := by
  unfold State.endEntry; split <;> rfl
@[simp] theorem State.endEntry_x2 (s : State) (l : Fin 160) (i : Fin 128) :
    (s.endEntry l i).x2 = s.x2 := by
  unfold State.endEntry; split <;> rfl
@[simp] theorem State.endEntry_y2 (s : State) (l : Fin 160) (i : Fin 128) :
    (s.endEntry l i).y2 = s.y2 := by
  unfold State.endEntry; split <;> rfl
@[simp] theorem State.endEntry_x3 (s : State) (l : Fin 160) (i : Fin 128) :
    (s.endEntry l i).x3 = s.x3 := by
  unfold State.endEntry; split <;> rfl
@[simp] theorem State.endEntry_y3 (s : State) (l : Fin 160) (i : Fin 128) :
    (s.endEntry l i).y3 = s.y3 := by
  unfold State.endEntry; split <;> rfl
@[simp] theorem State.endEntry_fault (s : State) (l : Fin 160) (i : Fin 128) :
    (s.endEntry l i).fault = s.fault := by
  unfold State.endEntry; split <;> rfl
@[simp] theorem State.endEntry_sink (s : State) (l : Fin 160) (i : Fin 128) :
    (s.endEntry l i).sink = s.sink := by
  unfold State.endEntry; split <;> rfl
@[simp] theorem State.endEntry_host (s : State) (l : Fin 160) (i : Fin 128) :
    (s.endEntry l i).host = s.host := by
  unfold State.endEntry; split <;> rfl
@[simp] theorem State.endEntry_oobReads (s : State) (l : Fin 160) (i : Fin 128) :
    (s.endEntry l i).oobReads = s.oobReads := by
  unfold State.endEntry; split <;> rfl

/-! ### endCompose -/

@[simp] theorem State.endCompose_cfg (s : State) (l : Fin 160) (c : Fin 240) :
    (s.endCompose l c).cfg = s.cfg := by
  unfold State.endCompose; split
  · rfl
  · split <;> rfl
@[simp] theorem State.endCompose_mem (s : State) (l : Fin 160) (c : Fin 240) :
    (s.endCompose l c).mem = s.mem := by
  unfold State.endCompose; split
  · rfl
  · split <;> rfl
@[simp] theorem State.endCompose_row (s : State) (l : Fin 160) (c : Fin 240) :
    (s.endCompose l c).row = s.row := by
  unfold State.endCompose; split
  · rfl
  · split <;> rfl
@[simp] theorem State.endCompose_objs (s : State) (l : Fin 160) (c : Fin 240) :
    (s.endCompose l c).objs = s.objs := by
  unfold State.endCompose; split
  · rfl
  · split <;> rfl
@[simp] theorem State.endCompose_k (s : State) (l : Fin 160) (c : Fin 240) :
    (s.endCompose l c).k = s.k := by
  unfold State.endCompose; split
  · rfl
  · split <;> rfl
@[simp] theorem State.endCompose_layers (s : State) (l : Fin 160) (c : Fin 240) :
    (s.endCompose l c).layers = s.layers := by
  unfold State.endCompose; split
  · rfl
  · split <;> rfl
@[simp] theorem State.endCompose_x2 (s : State) (l : Fin 160) (c : Fin 240) :
    (s.endCompose l c).x2 = s.x2 := by
  unfold State.endCompose; split
  · rfl
  · split <;> rfl
@[simp] theorem State.endCompose_y2 (s : State) (l : Fin 160) (c : Fin 240) :
    (s.endCompose l c).y2 = s.y2 := by
  unfold State.endCompose; split
  · rfl
  · split <;> rfl
@[simp] theorem State.endCompose_x3 (s : State) (l : Fin 160) (c : Fin 240) :
    (s.endCompose l c).x3 = s.x3 := by
  unfold State.endCompose; split
  · rfl
  · split <;> rfl
@[simp] theorem State.endCompose_y3 (s : State) (l : Fin 160) (c : Fin 240) :
    (s.endCompose l c).y3 = s.y3 := by
  unfold State.endCompose; split
  · rfl
  · split <;> rfl
@[simp] theorem State.endCompose_fault (s : State) (l : Fin 160) (c : Fin 240) :
    (s.endCompose l c).fault = s.fault := by
  unfold State.endCompose; split
  · rfl
  · split <;> rfl
@[simp] theorem State.endCompose_sink (s : State) (l : Fin 160) (c : Fin 240) :
    (s.endCompose l c).sink = s.sink := by
  unfold State.endCompose; split
  · rfl
  · split <;> rfl
@[simp] theorem State.endCompose_host (s : State) (l : Fin 160) (c : Fin 240) :
    (s.endCompose l c).host = s.host := by
  unfold State.endCompose; split
  · rfl
  · split <;> rfl
@[simp] theorem State.endCompose_oobReads (s : State) (l : Fin 160) (c : Fin 240) :
    (s.endCompose l c).oobReads = s.oobReads := by
  unfold State.endCompose; split
  · rfl
  · split <;> rfl

/-! ### The row and the sink -/

/-- SETCOLOR reaches its own column. -/
@[simp] theorem State.plot_pixel_same (s : State) (c : Fin 240) (col : Color15) (top bot : Bool) :
    (s.plot c col top bot).pixel c = setColor (s.pixel c) col top bot := by
  simp [State.plot, State.pixel]

/-- SETCOLOR leaves every other column alone. -/
theorem State.plot_pixel_other (s : State) {c d : Fin 240} (h : d ≠ c) (col : Color15) (top bot : Bool) :
    (s.plot c col top bot).pixel d = s.pixel d := by
  have hv : c.val ≠ d.val := fun e => h (Fin.ext e.symm)
  simp [State.plot, State.pixel, Vector.getElem_set_ne, hv]

/-- A cell written holds the color. -/
@[simp] theorem State.frameWrite_cell_same (s : State) (l : Fin 160) (c : Fin 240) (col : Color15) :
    (s.frameWrite l c col).cell l c = col := by
  simp [State.frameWrite, State.cell]

/-- A cell write leaves every other cell alone. -/
theorem State.frameWrite_cell_other (s : State) {l l' : Fin 160} {c c' : Fin 240} (h : ¬(l' = l ∧ c' = c))
    (col : Color15) : (s.frameWrite l c col).cell l' c' = s.cell l' c' := by
  by_cases hl : l' = l
  · subst hl
    have hv : c.val ≠ c'.val := fun e => h ⟨rfl, Fin.ext e.symm⟩
    simp [State.frameWrite, State.cell, Vector.getElem_set_ne, hv]
  · have hv : l.val ≠ l'.val := fun e => hl (Fin.ext e.symm)
    simp [State.frameWrite, State.cell, Vector.getElem_set_ne, hv]

/-- The sink's row-major index tells cells apart (R42). -/
theorem cellIndex_injective {l l' : Fin 160} {c c' : Fin 240} (h : cellIndex l c = cellIndex l' c') :
    l = l' ∧ c = c' := by
  unfold cellIndex at h
  exact ⟨Fin.ext (by omega), Fin.ext (by omega)⟩

end Sys2Proof.Machine
end

