-- ==== Sys2Proof/Laws/Ops.lean ====
section
/-! SUPPORT. One lemma for each shared operation that says once everything it can do: where it answers a next state,
and which. The statements' proofs cite these instead of unfolding the operation. -/

namespace Sys2Proof.Machine

open Sys2Proof.Config

/-! ### Small operations -/

/-- The next column is one on, and there is one before column 239. -/
theorem nextCol_eq (c : Fin 240) :
    nextCol c = if h : c.val + 1 < 240 then some ⟨c.val + 1, h⟩ else none := rfl

/-- A screen column is its coordinate. -/
theorem screenCol_some {x : Int} {c : Fin 240} (h : screenCol x = some c) : x = c.val := by
  unfold screenCol at h
  split at h
  · injection h with h
    subst h
    simp only
    omega
  · cases h

/-- Off screen there is no column. -/
theorem screenCol_none {x : Int} (h : screenCol x = none) : x < 0 ∨ 240 ≤ x := by
  unfold screenCol at h
  split at h
  · cases h
  · omega

/-- An object's tile data is always in the object bank (R147, R194). -/
theorem obj_addr_range (off : Nat) : 0x10000 ≤ Space.obj.addr off ∧ Space.obj.addr off < 0x18000 := by
  simp only [Space.addr]
  omega

/-- A byte of VRAM in range is the region's, and reading it changes nothing (R65). -/
theorem vramByte_in {s : State} {off : Nat} (h : off < Region.size .vram) :
    s.vramByte off = (s.mem.read8 .vram off, s) := by
  unfold State.vramByte
  rw [if_pos h]

/-- A byte of VRAM out of range is the next draw of the oracle (R66). -/
theorem vramByte_out {s : State} {off : Nat} (h : Region.size .vram ≤ off) :
    s.vramByte off = (oobByte s.oobReads, s.countOob) := by
  unfold State.vramByte
  rw [if_neg (by omega)]

/-- An object texel changes nothing (R65). -/
@[simp] theorem objTexel4_state (s : State) (tn px py : Nat) : (s.objTexel4 tn px py).2 = s := by
  simp only [State.objTexel4, State.texel4]
  rw [vramByte_in (obj_addr_range _).2]

/-- An object texel changes nothing (R65). -/
@[simp] theorem objTexel8_state (s : State) (tn px py : Nat) : (s.objTexel8 tn px py).2 = s := by
  simp only [State.objTexel8, State.texel8]
  rw [vramByte_in (obj_addr_range _).2]

/-- Everything SETCOLOR can do (R216). -/
theorem setColor_cases (p : Pixel) (col : Color15) (top bot : Bool) :
    (p.n = 0 ∧ setColor p col top bot = { p with c0 := col, t0 := top, n := 1 }) ∨
    (p.n = 1 ∧ p.t0 = true ∧ bot = true ∧ setColor p col top bot = { p with n := 2, c1 := some col }) ∨
    (p.n = 1 ∧ p.t0 = true ∧ bot = false ∧ setColor p col top bot = { p with n := 2 }) ∨
    (p.n ≠ 0 ∧ ¬(p.n = 1 ∧ p.t0 = true) ∧ setColor p col top bot = p) := by
  unfold setColor
  by_cases h0 : p.n = 0
  · simp [h0]
  · by_cases h1 : p.n = 1 ∧ p.t0 = true
    · cases bot <;> simp [h1.1, h1.2]
    · simp [h0, h1]

/-- A transparent index writes nothing (R143). -/
@[simp] theorem plotIndex_zero (s : State) (c : Fin 240) (col : Color15) (top bot : Bool) :
    s.plotIndex c 0 col top bot = s := rfl

/-- An opaque index is offered to the column. -/
theorem plotIndex_opaque (s : State) (c : Fin 240) {idx : Byte} (h : idx ≠ 0) (col : Color15) (top bot : Bool) :
    s.plotIndex c idx col top bot = s.plot c col top bot := by
  unfold State.plotIndex
  rw [if_neg h]

/-- An index offered to a column leaves the other columns alone. -/
theorem plotIndex_pixel_other (s : State) {c d : Fin 240} (h : d ≠ c) (idx : Byte) (col : Color15) (top bot : Bool) :
    (s.plotIndex c idx col top bot).pixel d = s.pixel d := by
  unfold State.plotIndex
  split
  · rfl
  · exact State.plot_pixel_other s h col top bot

/-! ### The sequencer -/

/-- Everything the pick of the next draw step can do: the layers kept are a tail of those there were; a layer picked
is their head, enabled; an object picked is the one at the cursor; nothing picked means no layer is left. -/
theorem pickDraw_cases (s : State) : ∀ ls : List Layer,
    (pickDraw s ls).1 <:+ ls ∧
    ((∃ l rest, pickDraw s ls = (l :: rest, some (.layer l)) ∧ s.layerEnabled l = true) ∨
     (∃ o rest, pickDraw s ls = (rest, some (.obj o)) ∧ s.objs[s.k]? = some o) ∨
     (pickDraw s ls = ([], none) ∧ s.objs[s.k]? = none))
  | [] => by
    unfold pickDraw
    cases h : s.objs[s.k]? with
    | none => exact ⟨List.suffix_refl _, .inr (.inr ⟨rfl, rfl⟩)⟩
    | some o => exact ⟨List.suffix_refl _, .inr (.inl ⟨o, [], rfl, rfl⟩)⟩
  | l :: rest => by
    have ih := pickDraw_cases s rest
    unfold pickDraw
    cases h : s.objs[s.k]? with
    | none =>
      rw [h] at ih
      by_cases he : s.layerEnabled l = true
      · simp only [he, if_true]
        exact ⟨List.suffix_refl _, .inl ⟨l, rest, rfl, he⟩⟩
      · dsimp only
        rw [if_neg he]
        exact ⟨ih.1.trans (List.suffix_cons l rest), ih.2⟩
    | some o =>
      rw [h] at ih
      by_cases hp : o.prio.toNat ≤ (s.layerPrio l).toNat
      · simp only [hp, if_true]
        exact ⟨List.suffix_refl _, .inr (.inl ⟨o, l :: rest, rfl, rfl⟩)⟩
      · by_cases he : s.layerEnabled l = true
        · simp only [hp, he, if_true, if_false]
          exact ⟨List.suffix_refl _, .inl ⟨l, rest, rfl, he⟩⟩
        · dsimp only
          rw [if_neg hp, if_neg he]
          exact ⟨ih.1.trans (List.suffix_cons l rest), ih.2⟩

/-- Starting a draw step keeps the request in progress on the same line. -/
theorem startDraw_seq (s : State) (l : Fin 160) (j : Nat) : ∃ ph, (s.startDraw l j).seq = .line l ph := ⟨_, rfl⟩

/-! ### Shared meanings: where each answers a next state, and which -/

/-- MODE0 and MODE1. -/
theorem startM01_next {lay : List Layer} {d : DispCnt} {s t : State} (h : startM01 lay d s = .next t) :
    ∃ l, s.seq = .line l (.select .mode) ∧
      t = (if d.objEn then (s.startLine.withLayers (sortBy s.layerBefore lay)).goto
              (.line l (.select (.render 0)))
           else (s.startLine.withLayers (sortBy s.layerBefore lay)).startDraw l 0) := by
  unfold startM01 at h
  split at h
  · refine ⟨_, ‹_›, ?_⟩
    dsimp only at h
    split at h <;> injection h with h
    · rw [if_pos ‹_›, h]
    · rw [if_neg ‹_›, h]
  · cases h

/-- MODE3–MODE7. -/
theorem badMode_next {s t : State} (h : badMode s = .next t) :
    ∃ l, s.seq = .line l (.select .mode) ∧ t = s.startLine.raiseFatal .badMode := by
  unfold badMode at h
  split at h
  · exact ⟨_, ‹_›, by injection h with h; exact h.symm⟩
  · cases h

/-- TEXT_32x32, TEXT_64x32, TEXT_32x64 and TEXT_64x64. -/
theorem textLocate_next {size : BitVec 2} {b : BgCnt} {s t : State} (h : textLocate size b s = .next t) :
    ∃ l j n c, s.seq = .line l (.draw j (.textSize n c)) ∧
      t = s.goto (.line l (.draw j (.textEntry n c
        (seAddr b.sbb size ((c.val + (s.bgData n).hofs.toNat) % (8 * textWt size) / 8)
          ((l.val + (s.bgData n).vofs.toNat) % (8 * textHt size) / 8))
        (Fin.ofNat 8 ((c.val + (s.bgData n).hofs.toNat) % (8 * textWt size)))
        (Fin.ofNat 8 ((l.val + (s.bgData n).vofs.toNat) % (8 * textHt size)))))) := by
  unfold textLocate at h
  split at h
  · exact ⟨_, _, _, _, ‹_›, by injection h with h; exact h.symm⟩
  · cases h

/-- AFF_128, AFF_256, AFF_512 and AFF_1024. -/
theorem affLocate_next {size : Nat} {s t : State} (h : affLocate size s = .next t) :
    ∃ l j n c, s.seq = .line l (.draw j (.affSize n c)) ∧
      t = s.goto (.line l (.draw j (.affOverflow n c size (affCoord (s.affData n) l c).1
        (affCoord (s.affData n) l c).2))) := by
  unfold affLocate at h
  split at h
  · exact ⟨_, _, _, _, ‹_›, by injection h with h; exact h.symm⟩
  · cases h

/-- OBJ_GFX_NORMAL and OBJ_GFX_SEMITRANS. -/
theorem drawnGfx_next {s t : State} (h : drawnGfx s = .next t) :
    ∃ l i, s.seq = .line l (.select (.gfx i)) ∧ t = s.goto (.line l (.select (.size i))) := by
  unfold drawnGfx at h
  split at h
  · exact ⟨_, _, ‹_›, by injection h with h; exact h.symm⟩
  · cases h

/-- The twelve OBJ_SIZE rows. -/
theorem sizedObj_next {w h : Nat} {key : ObjKey} {s t : State} (hn : sizedObj w h key s = .next t) :
    ∃ l i, s.seq = .line l (.select (.size i)) ∧
      t = (if (objDecode i key (s.objAttr2 i) w h).onLine l
            then s.withObjs (s.objs ++ [objDecode i key (s.objAttr2 i) w h]) else s).endEntry l i := by
  unfold sizedObj at hn
  split at hn
  · exact ⟨_, _, ‹_›, by injection hn with hn; exact hn.symm⟩
  · cases hn

/-- BLEND_OFF, BLEND_ALPHA, BLEND_WHITE and BLEND_BLACK. -/
theorem composeCol_next {f : Pixel → Color15} {s t : State} (h : composeCol f s = .next t) :
    ∃ l c, s.seq = .line l (.compose c) ∧ t = (s.frameWrite l c (f (s.pixel c))).endCompose l c := by
  unfold composeCol at h
  split at h
  · exact ⟨_, _, ‹_›, by injection h with h; exact h.symm⟩
  · cases h

/-- RENDER. -/
theorem execRender_next {s t : State} (h : execRender s = .next t) :
    (s.seq = .idle ∨ s.seq = .done) ∧ s.fault = none ∧ t = s.startFrame := by
  unfold execRender at h
  split at h
  · exact ⟨.inl ‹_›, ‹_›, by injection h with h; exact h.symm⟩
  · exact ⟨.inr ‹_›, ‹_›, by injection h with h; exact h.symm⟩
  · cases h
  · cases h

/-- A column of an affine object, off screen or outside the object, or the pixel to fetch. -/
theorem affineObjCol_cases (bw bh : Nat) (s : State) (l : Fin 160) (j : Nat) (o : ObjDesc) (ix : Nat) :
    affineObjCol bw bh s l j o ix = s.endObjCol l j o ix ∨
    ∃ c px py, o.col ix = some c ∧
      affineObjCol bw bh s l j o ix = s.goto (.line l (.draw j (.objMap o ix c px py))) := by
  unfold affineObjCol
  split
  · exact .inl rfl
  · dsimp only
    split
    · exact .inr ⟨_, _, _, ‹_›, rfl⟩
    · exact .inl rfl

/-- A column of a regular object, off screen or the pixel to fetch. -/
theorem regularObjCol_cases (s : State) (l : Fin 160) (j : Nat) (o : ObjDesc) (ix : Nat) :
    regularObjCol s l j o ix = s.endObjCol l j o ix ∨
    ∃ c, o.col ix = some c ∧ regularObjCol s l j o ix =
      s.goto (.line l (.draw j (.objMap o ix c (regularSource o l ix).1 (regularSource o l ix).2))) := by
  unfold regularObjCol
  split
  · exact .inl rfl
  · exact .inr ⟨_, ‹_›, rfl⟩

/-! ### The host -/

/-- A host write answers a next state exactly when it is legal, with the bytes stored (R63). -/
theorem hostWrite_legal (s : State) (w : HostWrite) (t : State) :
    s.hostWrite w = .next t ↔ w.legal ∧ t = s.withMem (w.store s.mem) := by
  cases w with
  | w8 r off v =>
    by_cases h : off < r.size <;> simp [State.hostWrite, HostWrite.legal, h, eq_comm]
  | w16 r off v =>
    rcases Nat.mod_two_eq_zero_or_one off with h2 | h2 <;> by_cases h : off < r.size <;>
      simp [State.hostWrite, HostWrite.legal, h, h2, eq_comm]

/-- The next step of a line is the hook's write, when one is due. -/
theorem step_of_hookDue {s s' : State} {l : Fin 160} {ph : Phase} {w : HostWrite} (hs : s.seq = .line l ph)
    (hd : s.hookDue l ph = some (w, s')) : step s = s'.hostWrite w := by
  simp [step, State.nextMove, hs, hd, runMove]

/-- A write of the hook is due exactly at the start of a line, on the head of the host's program (R70). -/
theorem hookDue_some {s s' : State} {l : Fin 160} {ph : Phase} {w : HostWrite}
    (h : s.hookDue l ph = some (w, s')) :
    ph = .select .mode ∧ s.cfg.lineHook = true ∧ ∃ l' rest, s.host = .hook l' w :: rest ∧ l' + 1 = l.val ∧
      s' = s.withHost rest := by
  unfold State.hookDue at h
  split at h
  · split at h
    · cases h
      exact ⟨rfl, (‹_ ∧ _›).1, _, _, ‹_›, (‹_ ∧ _›).2, rfl⟩
    · cases h
  · cases h

/-! ### The step -/

/-- Everything a move can do when it answers a next state. -/
theorem runMove_next {s t : State} {m : Move} (h : runMove s m = .next t) :
    (∃ sel bytes s' i rest, m = .instr sel bytes s' ∧ decode sel bytes = .ok (i, rest) ∧ exec i s' = .next t) ∨
    (∃ w s', m = .write w s' ∧ s'.hostWrite w = .next t) ∨
    (∃ k s', m = .supply k s' ∧ t = s'.withSink k) ∨
    (m = .wait ∧ t = s) := by
  unfold runMove at h
  split at h
  · split at h
    · exact .inl ⟨_, _, _, _, _, rfl, ‹_›, h⟩
    · cases h
  · exact .inr (.inl ⟨_, _, rfl, h⟩)
  · exact .inr (.inr (.inl ⟨_, _, rfl, by injection h with h; exact h.symm⟩))
  · exact .inr (.inr (.inr ⟨rfl, by injection h with h; exact h.symm⟩))
  · cases h
  · cases h
  · cases h

end Sys2Proof.Machine
end

