-- ==== Sys2Proof/Laws/PerInstr.lean ====
section
/-! SUPPORT. One family of per-instruction facts, EncodeWidth: an instruction is encoded in exactly the bytes its
selector's format has (spec/30_encoding.md R80, R101). -/

namespace Sys2Proof.Laws.EncodeWidth

open Sys2Proof

/-- The encoding has its selector's width. -/
def Statement (i : Instr) : Prop := (encode i).length = i.selector.width

theorem mode0 (d : DispCnt) : Statement (.mode0 d) := rfl
theorem mode1 (d : DispCnt) : Statement (.mode1 d) := rfl
theorem mode2 (d : DispCnt) : Statement (.mode2 d) := rfl
theorem mode3 (d : DispCnt) : Statement (.mode3 d) := rfl
theorem mode4 (d : DispCnt) : Statement (.mode4 d) := rfl
theorem mode5 (d : DispCnt) : Statement (.mode5 d) := rfl
theorem mode6 (d : DispCnt) : Statement (.mode6 d) := rfl
theorem mode7 (d : DispCnt) : Statement (.mode7 d) := rfl
theorem objMap2D (d : DispCnt) : Statement (.objMap2D d) := rfl
theorem objMap1D (d : DispCnt) : Statement (.objMap1D d) := rfl
theorem bg4bpp (b : BgCnt) : Statement (.bg4bpp b) := rfl
theorem bg8bpp (b : BgCnt) : Statement (.bg8bpp b) := rfl
theorem text32x32 (b : BgCnt) : Statement (.text32x32 b) := rfl
theorem text64x32 (b : BgCnt) : Statement (.text64x32 b) := rfl
theorem text32x64 (b : BgCnt) : Statement (.text32x64 b) := rfl
theorem text64x64 (b : BgCnt) : Statement (.text64x64 b) := rfl
theorem aff128 (b : BgCnt) : Statement (.aff128 b) := rfl
theorem aff256 (b : BgCnt) : Statement (.aff256 b) := rfl
theorem aff512 (b : BgCnt) : Statement (.aff512 b) := rfl
theorem aff1024 (b : BgCnt) : Statement (.aff1024 b) := rfl
theorem affClip (b : BgCnt) : Statement (.affClip b) := rfl
theorem affWrap (b : BgCnt) : Statement (.affWrap b) := rfl
theorem seText (e : SeText) : Statement (.seText e) := rfl
theorem seAff (tile : BitVec 8) : Statement (.seAff tile) := rfl
theorem objRegular (a : Attr0) : Statement (.objRegular a) := rfl
theorem objAffine (a : Attr0) : Statement (.objAffine a) := rfl
theorem objHidden (a : Attr0) : Statement (.objHidden a) := rfl
theorem objAffineDouble (a : Attr0) : Statement (.objAffineDouble a) := rfl
theorem objGfxNormal (a : Attr0) : Statement (.objGfxNormal a) := rfl
theorem objGfxSemitrans (a : Attr0) : Statement (.objGfxSemitrans a) := rfl
theorem objGfxWindow (a : Attr0) : Statement (.objGfxWindow a) := rfl
theorem objGfxProhibited (a : Attr0) : Statement (.objGfxProhibited a) := rfl
theorem obj4bpp (a : Attr0) : Statement (.obj4bpp a) := rfl
theorem obj8bpp (a : Attr0) : Statement (.obj8bpp a) := rfl
theorem objSize8x8 (k : ObjKey) : Statement (.objSize8x8 k) := rfl
theorem objSize16x16 (k : ObjKey) : Statement (.objSize16x16 k) := rfl
theorem objSize32x32 (k : ObjKey) : Statement (.objSize32x32 k) := rfl
theorem objSize64x64 (k : ObjKey) : Statement (.objSize64x64 k) := rfl
theorem objSize16x8 (k : ObjKey) : Statement (.objSize16x8 k) := rfl
theorem objSize32x8 (k : ObjKey) : Statement (.objSize32x8 k) := rfl
theorem objSize32x16 (k : ObjKey) : Statement (.objSize32x16 k) := rfl
theorem objSize64x32 (k : ObjKey) : Statement (.objSize64x32 k) := rfl
theorem objSize8x16 (k : ObjKey) : Statement (.objSize8x16 k) := rfl
theorem objSize8x32 (k : ObjKey) : Statement (.objSize8x32 k) := rfl
theorem objSize16x32 (k : ObjKey) : Statement (.objSize16x32 k) := rfl
theorem objSize32x64 (k : ObjKey) : Statement (.objSize32x64 k) := rfl
theorem objShapeProhibited (k : ObjKey) : Statement (.objShapeProhibited k) := rfl
theorem blendOff (b : BldCnt) : Statement (.blendOff b) := rfl
theorem blendAlpha (b : BldCnt) : Statement (.blendAlpha b) := rfl
theorem blendWhite (b : BldCnt) : Statement (.blendWhite b) := rfl
theorem blendBlack (b : BldCnt) : Statement (.blendBlack b) := rfl
theorem render : Statement .render := rfl

end Sys2Proof.Laws.EncodeWidth
end

