-- ==== Sys2Proof/Tests/Slice0.lean ====
section
/-! SUPPORT. The model's own tests: well-formedness, decoding of words written out from spec/30_encoding.md, single
steps checked against the examples of the rules and the vectors of spec/95_test_vectors.md (named at each test), and a
witness for the hypotheses of every statement. -/

namespace Sys2Proof.Tests

open Sys2Proof Sys2Proof.Config Sys2Proof.Machine

/-! ### Words with every other field in use -/

/-- A DISPCNT value with every field but the tested ones at a fixed nonzero value. -/
def disp (mode : BitVec 3) (map : Bool) : DispCnt := ⟨mode, 5, map, true, 9, true, 6⟩

/-- A BGnCNT value. -/
def bgc (depth overflow : Bool) (size : BitVec 2) : BgCnt := ⟨2, 1, 3, true, depth, 13, overflow, size⟩

/-- An attr0 value. -/
def att (rm gfx : BitVec 2) (depth : Bool) (shape : BitVec 2) : Attr0 := ⟨0x64, rm, gfx, true, depth, shape⟩

/-- An object key. -/
def key (shape size : BitVec 2) : ObjKey := ⟨att 0 0 false shape, ⟨0x1F8, 5, true, false, size⟩⟩

/-- A BLDCNT value. -/
def bld (mode : BitVec 2) : BldCnt := ⟨1, true, false, mode, 2, false, true, 3⟩

/-! ### Well-formedness: an ill-formed term for each check -/

theorem test_wf_refuses_modes :
    [Instr.mode0 (disp 1 true), .mode1 (disp 0 true), .mode2 (disp 3 true), .mode3 (disp 2 true), .mode4 (disp 5 true),
      .mode5 (disp 4 true), .mode6 (disp 7 true), .mode7 (disp 6 true), .objMap2D (disp 0 true),
      .objMap1D (disp 0 false)].all (fun i => !i.wf) = true := by decide

theorem test_wf_refuses_backgrounds :
    [Instr.bg4bpp (bgc true true 0), .bg8bpp (bgc false true 0), .text32x32 (bgc true true 1),
      .text64x32 (bgc true true 2), .text32x64 (bgc true true 1), .text64x64 (bgc true true 0),
      .aff128 (bgc true true 3), .aff256 (bgc true true 0), .aff512 (bgc true true 3), .aff1024 (bgc true true 2),
      .affClip (bgc true true 0), .affWrap (bgc true false 0)].all (fun i => !i.wf) = true := by decide

theorem test_wf_refuses_objects :
    [Instr.objRegular (att 2 0 false 0), .objAffine (att 0 0 false 0), .objHidden (att 3 0 false 0),
      .objAffineDouble (att 1 0 false 0), .objGfxNormal (att 0 1 false 0), .objGfxSemitrans (att 0 0 false 0),
      .objGfxWindow (att 0 3 false 0), .objGfxProhibited (att 0 2 false 0), .obj4bpp (att 0 0 true 0),
      .obj8bpp (att 0 0 false 0)].all (fun i => !i.wf) = true := by decide

theorem test_wf_refuses_sizes :
    [Instr.objSize8x8 (key 1 0), .objSize16x16 (key 0 0), .objSize32x32 (key 0 3), .objSize64x64 (key 0 2),
      .objSize16x8 (key 0 0), .objSize32x8 (key 1 0), .objSize32x16 (key 2 2), .objSize64x32 (key 1 2),
      .objSize8x16 (key 1 0), .objSize8x32 (key 2 0), .objSize16x32 (key 1 2), .objSize32x64 (key 3 3),
      .objShapeProhibited (key 2 3)].all (fun i => !i.wf) = true := by decide

theorem test_wf_refuses_blends :
    [Instr.blendOff (bld 1), .blendAlpha (bld 0), .blendWhite (bld 3), .blendBlack (bld 2)].all (fun i => !i.wf)
      = true := by decide

theorem test_wf_takes_the_others :
    [Instr.mode2 (disp 2 true), .objMap1D (disp 0 true), .bg8bpp (bgc true true 3), .text64x64 (bgc true true 3),
      .aff1024 (bgc false true 3), .affWrap (bgc false true 0), .seText ⟨1, true, true, 3⟩, .seAff 7,
      .objAffineDouble (att 3 0 false 0), .objGfxProhibited (att 0 3 false 0), .obj8bpp (att 0 0 true 0),
      .objSize32x64 (key 2 3), .objShapeProhibited (key 3 1), .blendBlack (bld 3), .render].all Instr.wf = true := by
  decide

/-! ### Decoding: every constructor, by a word written out from R81–R96 -/

/-- DISPCNT 110 1 1001 1 m 101 mmm: windows 6, OBJEN, BG3 and BG0 on, bit 7, OBJMAP, bits 5:3 = 5 (R81). -/
theorem test_decode_modes :
    decode .bgMode [0xE8, 0xD9] = .ok (.mode0 (disp 0 true), []) ∧
    decode .bgMode [0xE9, 0xD9] = .ok (.mode1 (disp 1 true), []) ∧
    decode .bgMode [0xEA, 0xD9] = .ok (.mode2 (disp 2 true), []) ∧
    decode .bgMode [0xEB, 0xD9] = .ok (.mode3 (disp 3 true), []) ∧
    decode .bgMode [0xEC, 0xD9] = .ok (.mode4 (disp 4 true), []) ∧
    decode .bgMode [0xED, 0xD9] = .ok (.mode5 (disp 5 true), []) ∧
    decode .bgMode [0xEE, 0xD9] = .ok (.mode6 (disp 6 true), []) ∧
    decode .bgMode [0xEF, 0xD9] = .ok (.mode7 (disp 7 true), []) ∧
    decode .objMapping [0xA9, 0xD9] = .ok (.objMap2D (disp 1 false), []) ∧
    decode .objMapping [0xE9, 0xD9] = .ok (.objMap1D (disp 1 true), []) := by decide

/-- BGnCNT ss o 01101 d 1 11 01 10: PRIO 2, CBB 1, bits 5:4 = 3, bit 6, CD, SBB 13, OVF, SIZE (R82). -/
theorem test_decode_backgrounds :
    decode .bgDepth [0x76, 0x0D] = .ok (.bg4bpp (bgc false false 0), []) ∧
    decode .bgDepth [0xF6, 0x0D] = .ok (.bg8bpp (bgc true false 0), []) ∧
    decode .textSize [0x76, 0x0D] = .ok (.text32x32 (bgc false false 0), []) ∧
    decode .textSize [0x76, 0x4D] = .ok (.text64x32 (bgc false false 1), []) ∧
    decode .textSize [0x76, 0x8D] = .ok (.text32x64 (bgc false false 2), []) ∧
    decode .textSize [0x76, 0xCD] = .ok (.text64x64 (bgc false false 3), []) := by decide

/-- The same for the fields only an affine layer has (R82). -/
theorem test_decode_affine_backgrounds :
    decode .affSize [0xF6, 0x2D] = .ok (.aff128 (bgc true true 0), []) ∧
    decode .affSize [0xF6, 0x6D] = .ok (.aff256 (bgc true true 1), []) ∧
    decode .affSize [0xF6, 0xAD] = .ok (.aff512 (bgc true true 2), []) ∧
    decode .affSize [0xF6, 0xED] = .ok (.aff1024 (bgc true true 3), []) ∧
    decode .affOverflow [0x76, 0xCD] = .ok (.affClip (bgc false false 3), []) ∧
    decode .affOverflow [0x76, 0xED] = .ok (.affWrap (bgc false true 3), []) := by decide

/-- TMD-8 and TMD-9: the screen entries 0xA5C3 and 0x5C2A; one affine map byte (R88, R89). -/
theorem test_decode_entries :
    decode .seText [0xC3, 0xA5] = .ok (.seText ⟨0x1C3, true, false, 10⟩, []) ∧
    decode .seText [0x2A, 0x5C] = .ok (.seText ⟨0x02A, true, true, 5⟩, []) ∧
    decode .seAff [0x81, 0x55] = .ok (.seAff 0x81, [0x55]) := by decide

/-- attr0 ss c 1 gg rr 01100100: Y 0x64, RM, GFX, mosaic, CM, SHAPE (R92). -/
theorem test_decode_attr0 :
    decode .objRender [0x64, 0x10] = .ok (.objRegular (att 0 0 false 0), []) ∧
    decode .objRender [0x64, 0x11] = .ok (.objAffine (att 1 0 false 0), []) ∧
    decode .objRender [0x64, 0x12] = .ok (.objHidden (att 2 0 false 0), []) ∧
    decode .objRender [0x64, 0x13] = .ok (.objAffineDouble (att 3 0 false 0), []) ∧
    decode .objGfx [0x64, 0x50] = .ok (.objGfxNormal (att 0 0 false 1), []) ∧
    decode .objGfx [0x64, 0x54] = .ok (.objGfxSemitrans (att 0 1 false 1), []) ∧
    decode .objGfx [0x64, 0x58] = .ok (.objGfxWindow (att 0 2 false 1), []) ∧
    decode .objGfx [0x64, 0x5C] = .ok (.objGfxProhibited (att 0 3 false 1), []) ∧
    decode .objDepth [0x64, 0x93] = .ok (.obj4bpp (att 3 0 false 2), []) ∧
    decode .objDepth [0x64, 0xB3] = .ok (.obj8bpp (att 3 0 true 2), []) := by decide

/-- The key's low half is attr0 (R92), its high half attr1 ss 0 1 101 111111000: X 0x1F8, bits 11:9 = 5, HFLIP, SIZE
(R93); the sizes are R96's. -/
theorem test_decode_sizes :
    decode .objSize [0x64, 0x10, 0xF8, 0x1B] = .ok (.objSize8x8 (key 0 0), []) ∧
    decode .objSize [0x64, 0x10, 0xF8, 0x5B] = .ok (.objSize16x16 (key 0 1), []) ∧
    decode .objSize [0x64, 0x10, 0xF8, 0x9B] = .ok (.objSize32x32 (key 0 2), []) ∧
    decode .objSize [0x64, 0x10, 0xF8, 0xDB] = .ok (.objSize64x64 (key 0 3), []) ∧
    decode .objSize [0x64, 0x50, 0xF8, 0x1B] = .ok (.objSize16x8 (key 1 0), []) ∧
    decode .objSize [0x64, 0x50, 0xF8, 0x5B] = .ok (.objSize32x8 (key 1 1), []) ∧
    decode .objSize [0x64, 0x50, 0xF8, 0x9B] = .ok (.objSize32x16 (key 1 2), []) ∧
    decode .objSize [0x64, 0x50, 0xF8, 0xDB] = .ok (.objSize64x32 (key 1 3), []) := by decide

/-- The vertical sizes, and the prohibited shape. -/
theorem test_decode_tall_sizes :
    decode .objSize [0x64, 0x90, 0xF8, 0x1B] = .ok (.objSize8x16 (key 2 0), []) ∧
    decode .objSize [0x64, 0x90, 0xF8, 0x5B] = .ok (.objSize8x32 (key 2 1), []) ∧
    decode .objSize [0x64, 0x90, 0xF8, 0x9B] = .ok (.objSize16x32 (key 2 2), []) ∧
    decode .objSize [0x64, 0x90, 0xF8, 0xDB] = .ok (.objSize32x64 (key 2 3), []) ∧
    decode .objSize [0x64, 0xD0, 0xF8, 0x9B] = .ok (.objShapeProhibited (key 3 2), []) := by decide

/-- BLDCNT 11 1 0 0010 mm 0 1 0001: BG0 and OBJ top, BG1 and backdrop bottom, bits 15:14 = 3 (R86); RENDER has no
word. -/
theorem test_decode_blends :
    decode .blendMode [0x11, 0xE2] = .ok (.blendOff (bld 0), []) ∧
    decode .blendMode [0x51, 0xE2] = .ok (.blendAlpha (bld 1), []) ∧
    decode .blendMode [0x91, 0xE2] = .ok (.blendWhite (bld 2), []) ∧
    decode .blendMode [0xD1, 0xE2] = .ok (.blendBlack (bld 3), []) ∧
    decode .request [] = .ok (.render, []) := by decide

/-- A word cut short is rejected by name. -/
theorem test_decode_rejects_short_words :
    decode .bgMode [0x00] = .error (.truncated .bgMode) ∧ decode .seAff [] = .error (.truncated .seAff) ∧
      decode .objSize [0, 0, 0] = .error (.truncated .objSize) := by decide

/-! ### Single steps -/

/-- The reset state with the sequencer moved. -/
def at_ (q : Machine.Seq) : State := { State.reset with seq := q }

/-- The same with regions. -/
def with_ (m : Memory) (q : Machine.Seq) : State := { State.reset with mem := m, seq := q }

/-- Line 0, drawing. -/
def drawing (p : DrawPos) : Machine.Seq := .line 0 (.draw 0 p)

/-- The sequencer of a next state. -/
def seqOf : Result → Option Machine.Seq
  | .next t => some t.seq
  | _ => none

/-- A Pixel of a next state. -/
def pixOf (c : Fin 240) : Result → Option Pixel
  | .next t => some (t.pixel c)
  | _ => none

/-- A sink cell of a next state. -/
def cellOf (l : Fin 160) (c : Fin 240) : Result → Option Color15
  | .next t => some (t.cell l c)
  | _ => none

/-- The fault record and the sequencer of a next state. -/
def faultOf : Result → Option (Option FatalReason × Machine.Seq)
  | .next t => some (t.fault, t.seq)
  | _ => none

/-- R224: a request starts at line 0. -/
theorem test_render_starts : seqOf (exec .render State.reset) = some (.line 0 (.select .mode)) := by decide

/-- AFF-9: H bits 15:12 are ignored. -/
theorem test_render_latches :
    (match exec .render (with_ ⟨[(0x28, 0xFF), (0x29, 0xFF), (0x2A, 0xFF), (0x2B, 0xF7)], [], [], []⟩ .done) with
      | .next t => t.x2.toInt
      | _ => 0) = 134217727 := by decide

/-- R221's example: BG0 priority 1, BG1 priority 0, no objects: BG1 is drawn first. -/
theorem test_mode0_orders_layers :
    seqOf (step (with_ ⟨[(0x01, 0x03), (0x08, 1), (0x0C, 3), (0x0E, 3)], [], [], []⟩ (.line 0 (.select .mode)))) =
      some (drawing (.textSize 1 0)) := by decide

/-- R191, R220: with OBJEN the scan starts; AFF-13: in mode 1, BG3 is not drawn. -/
theorem test_mode1_scans_and_skips_bg3 :
    seqOf (step (with_ ⟨[(0x00, 1), (0x01, 0x10)], [], [], []⟩ (.line 0 (.select .mode)))) =
      some (.line 0 (.select (.render 0))) ∧
    seqOf (step (with_ ⟨[(0x00, 1), (0x01, 0x08)], [], [], []⟩ (.line 0 (.select .mode)))) =
      some (.line 0 (.compose 0)) := by decide

/-- MUX-6: on a tie BG2 first, or BG3 under the other parameter; MUX-6c: BG3 first when strictly lower. -/
theorem test_mode2_tie :
    seqOf (step (with_ ⟨[(0x00, 2), (0x01, 0x0C)], [], [], []⟩ (.line 0 (.select .mode)))) =
      some (drawing (.affSize .bg2 0)) ∧
    seqOf (step { with_ ⟨[(0x00, 2), (0x01, 0x0C)], [], [], []⟩ (.line 0 (.select .mode)) with
      cfg := ⟨false, .bg3First⟩ }) = some (drawing (.affSize .bg3 0)) ∧
    seqOf (step (with_ ⟨[(0x00, 2), (0x01, 0x0C), (0x0C, 1)], [], [], []⟩ (.line 0 (.select .mode)))) =
      some (drawing (.affSize .bg3 0)) := by decide

/-- FAULT-1 and FAULT-2. -/
theorem test_bad_modes_fault :
    [3, 4, 5, 6, 7].all (fun m => faultOf (step (with_ ⟨[(0x00, m)], [], [], []⟩ (.line 0 (.select .mode)))) ==
      some (some .badMode, .fault)) = true := by decide

/-- TMD-10: hofs 250 and column 10 give x = 4 under size 0; TMD-11: hofs 500 and column 20 give x = 8 under size 1. -/
theorem test_text_sizes_wrap :
    seqOf (exec (.text32x32 (bgc false false 0)) (with_ ⟨[(0x10, 250)], [], [], []⟩ (drawing (.textSize 0 10)))) =
      some (drawing (.textEntry 0 10 0x6800 4 0)) ∧
    seqOf (exec (.text64x32 (bgc false false 1)) (with_ ⟨[(0x10, 0xF4), (0x11, 1)], [], [], []⟩
      (drawing (.textSize 0 20)))) = some (drawing (.textEntry 0 20 0x6802 0 0)) := by decide

/-- TMD-5 and TMD-6, as map tiles (5, 40) and (40, 40): 0x2A0A and 0x3A10. -/
theorem test_text_sizes_quadrants :
    seqOf (exec (.text32x64 ⟨0, 0, 0, false, false, 4, false, 2⟩) (with_ ⟨[(0x10, 40), (0x12, 0x40), (0x13, 1)], [], [],
      []⟩ (drawing (.textSize 0 0)))) = some (drawing (.textEntry 0 0 0x2A0A 0 0)) ∧
    seqOf (exec (.text64x64 ⟨0, 0, 0, false, false, 4, false, 3⟩) (with_ ⟨[(0x10, 0x40), (0x11, 1), (0x12, 0x40),
      (0x13, 1)], [], [], []⟩ (drawing (.textSize 0 0)))) = some (drawing (.textEntry 0 0 0x3A10 0 0)) := by decide

/-- R144: both flips mirror within the tile. -/
theorem test_seText_flips :
    seqOf (exec (.seText ⟨0x02A, true, true, 5⟩) (at_ (drawing (.textEntry 1 7 0 2 6)))) =
      some (drawing (.textDepth 1 7 0x02A 5 5 1)) := by decide

/-- R140's example with FETCH-1: byte 0x404E = 0xA7, column 5 is odd, so index 10; bank 3 (R157) is PAL 0x74. -/
theorem test_bg4bpp_high_nibble :
    pixOf 9 (exec (.bg4bpp ⟨0, 1, 0, false, false, 0, false, 0⟩) (with_ ⟨[], [(0x404E, 0xA7)], [],
      [(0x74, 0x77), (0x75, 0x87)]⟩ (drawing (.textDepth 0 9 2 3 5 3)))) = some ⟨1, 0x0777, false, none⟩ := by decide

/-- FETCH-5: index 0 writes nothing whatever the bank. -/
theorem test_bg4bpp_transparent :
    pixOf 9 (exec (.bg4bpp ⟨0, 1, 0, false, false, 0, false, 0⟩) (with_ ⟨[], [(0x404E, 0xA0)], [], [(0xA0, 1)]⟩
      (drawing (.textDepth 0 9 2 5 4 3)))) = some Pixel.empty := by decide

/-- TMD-19: index 200 is PAL 0x190, the bank ignored. -/
theorem test_bg8bpp_ignores_the_bank :
    pixOf 0 (exec (.bg8bpp ⟨0, 1, 0, false, true, 31, false, 0⟩) (with_ ⟨[], [(0x4040, 200)], [],
      [(0x190, 0x45), (0x191, 0x23)]⟩ (drawing (.textDepth 0 0 1 15 0 0)))) = some ⟨1, 0x2345, false, none⟩ := by decide

/-- FETCH-9: beyond VRAM one draw of the oracle is counted. -/
theorem test_bg8bpp_outside_vram :
    (match exec (.bg8bpp ⟨0, 3, 0, false, true, 0, false, 0⟩) (at_ (drawing (.textDepth 0 0 1023 0 0 0))) with
      | .next t => t.oobReads
      | _ => 0) = 1 := by
  simp [exec, execBg8bpp, at_, drawing, State.bgTexel8, State.texel8, Space.addr, charBase, State.vramByte, Region.size,
    State.plotBg, State.plotIndex, State.endTextCol, nextCol, State.countOob, State.plot]
  split <;> rfl

/-- AFF-3: a rotation, line 3, column 7: (−3, 7). AFF-4: pa = 2.0, column 100: 200. -/
theorem test_aff_sizes :
    seqOf (exec (.aff128 (bgc false true 0)) (with_ ⟨[(0x23, 0xFF), (0x25, 1)], [], [], []⟩
      (.line 3 (.draw 0 (.affSize .bg2 7))))) = some (.line 3 (.draw 0 (.affOverflow .bg2 7 128 (-3) 7))) ∧
    seqOf (exec (.aff256 (bgc false true 1)) (with_ ⟨[(0x31, 2)], [], [], []⟩ (drawing (.affSize .bg3 100)))) =
      some (drawing (.affOverflow .bg3 100 256 200 0)) := by decide

/-- AFF-6: −0.5 floors to −1. AFF-7: the reference is linear in the line, 21. -/
theorem test_aff_floor_and_linear :
    seqOf (exec (.aff512 (bgc false true 2)) { at_ (drawing (.affSize .bg2 0)) with x2 := -128 }) =
      some (drawing (.affOverflow .bg2 0 512 (-1) 0)) ∧
    seqOf (exec (.aff1024 (bgc false true 3)) { with_ ⟨[(0x22, 0x80)], [], [], []⟩ (.line 10 (.draw 0 (.affSize .bg2 0)))
      with x2 := 0x1000 }) = some (.line 10 (.draw 0 (.affOverflow .bg2 0 1024 21 0))) := by decide

/-- R175's rows under AFF_WRAP, S = 128: −1 → 127, 128 → 0; the map byte is R172's. -/
theorem test_affWrap_masks :
    seqOf (exec (.affWrap ⟨0, 1, 0, false, false, 2, true, 0⟩) (at_ (drawing (.affOverflow .bg2 3 128 (-1) 128)))) =
      some (drawing (.affEntry .bg2 3 0x100F 0x4000 7 0)) := by decide

/-- R175's rows under AFF_CLIP: −1 and 128 are skipped, 127 is drawn. AFF-11: (17, 9) under S = 256, SBB 2 is 0x1022. -/
theorem test_affClip_skips :
    [(-1, 0), (128, 0), (0, -1), (0, 128)].all (fun t => seqOf (exec (.affClip (bgc false false 0))
      (at_ (drawing (.affOverflow .bg2 3 128 t.1 t.2)))) == some (drawing (.affSize .bg2 4))) = true ∧
    seqOf (exec (.affClip ⟨0, 0, 0, false, false, 2, false, 1⟩) (at_ (drawing (.affOverflow .bg2 3 256 17 9)))) =
      some (drawing (.affEntry .bg2 3 0x1022 0 1 1)) := by decide

/-- P4: map byte 1, tile 1 all index 5, entry 5 green; BG2's flags are BLDCNT bits 2 and 10. -/
theorem test_seAff_draws :
    pixOf 3 (exec (.seAff 1) (with_ ⟨[(0x50, 0x04)], [(0x47, 5)], [], [(0x0A, 0xE0), (0x0B, 0x03)]⟩
      (drawing (.affEntry .bg2 3 0x4000 0 7 0)))) = some ⟨1, 0x03E0, true, none⟩ := by decide

/-- R186, R187: a hidden entry and a window entry are skipped; the others go on. FAULT-9's first half. -/
theorem test_obj_scan_skips :
    seqOf (exec (.objHidden (att 2 3 false 3)) (at_ (.line 0 (.select (.render 4))))) =
      some (.line 0 (.select (.render 5))) ∧
    seqOf (exec (.objRegular (att 0 0 false 0)) (at_ (.line 0 (.select (.render 4))))) =
      some (.line 0 (.select (.gfx 4))) ∧
    seqOf (exec (.objGfxWindow (att 0 2 false 3)) (at_ (.line 0 (.select (.gfx 4))))) =
      some (.line 0 (.select (.render 5))) ∧
    seqOf (exec (.objGfxSemitrans (att 0 1 false 0)) (at_ (.line 0 (.select (.gfx 4))))) =
      some (.line 0 (.select (.size 4))) := by decide

/-- FAULT-3 and the shape fault. -/
theorem test_obj_faults :
    faultOf (step (with_ ⟨[], [], [(40, 0x64), (41, 0x0C)], []⟩ (.line 0 (.select (.gfx 5))))) =
      some (some .badObjMode, .fault) ∧
    faultOf (step (with_ ⟨[], [], [(17, 0xC0)], []⟩ (.line 0 (.select (.size 2))))) =
      some (some .badObjShape, .fault) := by decide

/-- The number of objects on the list of a next state. -/
def listed : Result → Option Nat
  | .next t => some t.objs.length
  | _ => none

/-- R204: Y 160, 8 × 8, on no line; Y 161, 64 × 64 double, on lines 0–32 only; OBJ-8: Y 250, 16 × 16, on lines 0–9. -/
theorem test_obj_sizes_test_the_line :
    listed (exec (.objSize8x8 ⟨⟨160, 0, 0, false, false, 0⟩, ⟨0, 0, false, false, 0⟩⟩)
      (at_ (.line 159 (.select (.size 0))))) = some 0 ∧
    listed (exec (.objSize64x64 ⟨⟨161, 3, 0, false, false, 0⟩, ⟨0, 0, false, false, 3⟩⟩)
      (at_ (.line 32 (.select (.size 0))))) = some 1 ∧
    listed (exec (.objSize64x64 ⟨⟨161, 3, 0, false, false, 0⟩, ⟨0, 0, false, false, 3⟩⟩)
      (at_ (.line 33 (.select (.size 0))))) = some 0 ∧
    listed (exec (.objSize16x16 ⟨⟨250, 0, 0, false, false, 0⟩, ⟨0, 0, false, false, 1⟩⟩)
      (at_ (.line 9 (.select (.size 0))))) = some 1 ∧
    listed (exec (.objSize16x16 ⟨⟨250, 0, 0, false, false, 0⟩, ⟨0, 0, false, false, 1⟩⟩)
      (at_ (.line 10 (.select (.size 0))))) = some 0 := by decide

/-- OBJ-1: the descriptor 0x40FA, 0x81F8, 0xA7FF. -/
theorem test_obj_decode :
    objDecode 0 ⟨Attr0.ofWord 0x40FA, Attr1.ofWord 0x81F8⟩ (Attr2.ofWord 0xA7FF) 32 16 =
      { idx := 0, y := -6, rm := 0, gfx := 0, cm := false, shape := 1, x := -8, size := 2, hf := false, vf := false,
        mat := 0, tile := 0x3FF, prio := 1, pb := 10, w := 32, h := 16 } := by decide

/-- An 8 × 8 object at the origin. -/
def obj : ObjDesc :=
  { idx := 0, y := 0, rm := 0, gfx := 0, cm := false, shape := 0, x := 0, size := 0, hf := false, vf := false, mat := 0,
    tile := 1, prio := 0, pb := 0, w := 8, h := 8 }

/-- OBJ-4b: at x = −4 with a horizontal flip, box column 4 is screen column 0 and source column 3; box column 3 is off
screen. -/
theorem test_objRegular_clips_and_flips :
    seqOf (exec (.objRegular (att 0 0 false 0)) (at_ (drawing (.objRender { obj with x := -4, hf := true } 4)))) =
      some (drawing (.objMap { obj with x := -4, hf := true } 4 0 3 0)) ∧
    seqOf (exec (.objRegular (att 0 0 false 0)) (at_ (drawing (.objRender { obj with x := -4 } 3)))) =
      some (drawing (.objRender { obj with x := -4 } 4)) := by decide

/-- OBJ-7: PA = PD = 0.5: dx = −2 gives tx = 3. OBJ-7b (D17): PA = −1.0, dx = −4 gives tx = 8, outside. -/
theorem test_objAffine_texel :
    seqOf (exec (.objAffine (att 1 0 false 0)) (with_ ⟨[], [], [(0x06, 0x80), (0x1E, 0x80)], []⟩
      (drawing (.objRender { obj with rm := 1 } 2)))) = some (drawing (.objMap { obj with rm := 1 } 2 2 3 2)) ∧
    seqOf (exec (.objAffine (att 1 0 false 0)) (with_ ⟨[], [], [(0x07, 0xFF), (0x1F, 0x01)], []⟩
      (drawing (.objRender { obj with rm := 1 } 0)))) = some (drawing (.objRender { obj with rm := 1 } 1)) := by decide

/-- R200's example: 8 × 8 double size, identity, line 4: columns 4–11 show texels 0–7, column 3 is unset. -/
theorem test_objAffineDouble_centred :
    seqOf (exec (.objAffineDouble (att 3 0 false 0)) (with_ ⟨[], [], [(0x07, 1), (0x1F, 1)], []⟩
      (.line 4 (.draw 0 (.objRender { obj with rm := 3 } 4))))) =
      some (.line 4 (.draw 0 (.objMap { obj with rm := 3 } 4 4 0 0))) ∧
    seqOf (exec (.objAffineDouble (att 3 0 false 0)) (with_ ⟨[], [], [(0x07, 1), (0x1F, 1)], []⟩
      (.line 4 (.draw 0 (.objRender { obj with rm := 3 } 3))))) =
      some (.line 4 (.draw 0 (.objRender { obj with rm := 3 } 4))) := by decide

/-- OBJ-2: a 32 × 32 8bpp object, tile 10, tile column 3, tile row 2: 32 under 1D, 80 under 2D. -/
theorem test_objMap_tile_numbers :
    seqOf (exec (.objMap1D (disp 0 true)) (at_ (drawing (.objMap { obj with cm := true, tile := 10, w := 32, h := 32 } 0 0
      24 16)))) = some (drawing (.objDepth { obj with cm := true, tile := 10, w := 32, h := 32 } 0 0 32 24 16)) ∧
    seqOf (exec (.objMap2D (disp 0 false)) (at_ (drawing (.objMap { obj with cm := true, tile := 10, w := 32, h := 32 } 0
      0 24 16)))) = some (drawing (.objDepth { obj with cm := true, tile := 10, w := 32, h := 32 } 0 0 80 24 16)) := by
  decide

/-- OBJ-11: tile 1024 is read at the start of the bank; the flags are BLDCNT bits 4 and 12. -/
theorem test_obj4bpp_wraps_in_the_bank :
    pixOf 8 (exec (.obj4bpp (att 0 0 false 0)) (with_ ⟨[(0x50, 0x10)], [(0x10000, 0x33)], [], [(0x206, 3)]⟩
      (drawing (.objDepth { obj with w := 16, h := 16 } 8 8 1024 8 0)))) = some ⟨1, 3, true, none⟩ := by decide

/-- OBJ-10: index 200 of the object table is PAL 0x390, the bank ignored. -/
theorem test_obj8bpp_ignores_the_bank :
    pixOf 0 (exec (.obj8bpp (att 0 0 true 0)) (with_ ⟨[], [(0x10040, 200)], [], [(0x390, 0x34), (0x391, 0x12)]⟩
      (drawing (.objDepth { obj with cm := true, pb := 15 } 0 0 2 0 0)))) = some ⟨1, 0x1234, false, none⟩ := by decide

/-- The reset state at a column to compose, with one Pixel. -/
def composing (m : Memory) (p : Pixel) : State :=
  { with_ m (.line 0 (.compose 0)) with row := Row.empty.set 0 p }

/-- BLEND-14 and BLEND-15. -/
theorem test_blendOff :
    cellOf 0 0 (exec (.blendOff (bld 0)) (composing ⟨[], [], [], [(0, 0x84), (1, 0x10)]⟩ Pixel.empty)) =
      some 0x1084 ∧
    cellOf 0 0 (exec (.blendOff (bld 0)) (composing ⟨[], [], [], [(0, 0x84), (1, 0x10)]⟩ ⟨2, 0x001F, true, some 0x7C00⟩))
      = some 0x001F := by decide

/-- BLEND-16, BLEND-17, BLEND-18 and BLEND-20; eva = evb = 8. -/
theorem test_blendAlpha :
    [((⟨2, 0x001F, true, some 0x7C00⟩ : Pixel), (0x3C0F : Color15)), (⟨2, 0x001F, true, none⟩, 0x001F),
      (⟨1, 0x001F, true, none⟩, 0x0851), (⟨1, 0x001F, false, none⟩, 0x001F)].all (fun e =>
        cellOf 0 0 (exec (.blendAlpha ⟨0, false, false, 1, 0, false, true, 0⟩) (composing ⟨[(0x52, 8), (0x53, 8)], [], [],
          [(0, 0x84), (1, 0x10)]⟩ e.1)) == some e.2) = true := by decide

/-- BLEND-22, BLEND-23 and BLEND-24; evy = 8. -/
theorem test_blendWhite :
    cellOf 0 0 (exec (.blendWhite ⟨0, false, false, 2, 0, false, false, 0⟩) (composing ⟨[(0x54, 8)], [], [], []⟩
      ⟨1, 0x001F, false, none⟩)) = some 0x3DFF ∧
    cellOf 0 0 (exec (.blendWhite ⟨0, false, true, 2, 0, false, false, 0⟩) (composing ⟨[(0x54, 8)], [], [],
      [(0, 0x84), (1, 0x10)]⟩ Pixel.empty)) = some 0x4631 ∧
    cellOf 0 0 (exec (.blendWhite ⟨0, false, false, 2, 0, false, false, 0⟩) (composing ⟨[(0x54, 8)], [], [],
      [(0, 0x84), (1, 0x10)]⟩ Pixel.empty)) = some 0x1084 := by decide

/-- BLEND-9, BLEND-10 and BLEND-25. -/
theorem test_blendBlack :
    cellOf 0 0 (exec (.blendBlack ⟨0, false, false, 3, 0, false, false, 0⟩) (composing ⟨[(0x54, 8)], [], [], []⟩
      ⟨1, 0x7FFF, false, none⟩)) = some 0x3DEF ∧
    cellOf 0 0 (exec (.blendBlack ⟨0, false, false, 3, 0, false, false, 0⟩) (composing ⟨[(0x54, 3)], [], [], []⟩
      ⟨1, 0x1CE7, false, none⟩)) = some 0x14A5 ∧
    cellOf 0 0 (exec (.blendBlack ⟨0, false, true, 3, 0, false, false, 0⟩) (composing ⟨[(0x54, 8)], [], [],
      [(0, 0x84), (1, 0x10)]⟩ Pixel.empty)) = some 0x0842 := by decide

/-- BLEND-4, BLEND-5 and the corner cases of R242. -/
theorem test_blend :
    blend 0x7FFF 0x0000 12 4 = 0x5EF7 ∧ blend 0x1234 0x4321 10 6 = 0x228C ∧ blend 0x7FFF 0x7FFF 16 16 = 0x7FFF ∧
      blend 0x7FFF 0x7FFF 0 0 = 0 := by decide

/-- FETCH-7: the object bank's address function. -/
theorem test_object_bank :
    Space.obj.addr 0x7FFF = 0x17FFF ∧ Space.obj.addr 0x8000 = 0x10000 ∧ Space.obj.addr 0x12345 = 0x12345 := by decide

/-- MUX-7 and MUX-8: the third layer never reaches the Pixel. -/
theorem test_setColor_three_layers :
    setColors Pixel.empty [(0x001F, true, false), (0x7C00, true, false), (0x03E0, false, true)] =
      ⟨2, 0x001F, true, none⟩ ∧
    setColors Pixel.empty [(0x001F, true, false), (0x7C00, false, true), (0x03E0, false, true)] =
      ⟨2, 0x001F, true, some 0x7C00⟩ := by decide

/-- FAULT-10: in FAULT the host may still write, a request is stuck. -/
theorem test_fault_is_terminal :
    (match step { at_ .fault with fault := some .badMode, host := [.write (.w16 .io 0 0), .render] } with
      | .next t => step t
      | r => r) = .fault .stuckInFault := by rfl

/-- FAULT-11's hook: a write after line 9 is made at the start of line 10. -/
theorem test_line_hook :
    faultOf (match step { at_ (.line 10 (.select .mode)) with
        cfg := ⟨true, .bg2First⟩, host := [.hook 9 (.w16 .io 0 3)] } with
      | .next t => step t
      | r => r) = some (some .badMode, .fault) := by decide

/-- Misaligned, absent and stray host moves stop, each by its own name. -/
theorem test_illegal_host_moves :
    (match step { State.reset with host := [.write (.w16 .io 1 0)] } with | .refused r => some r | _ => none) =
      some .misalignedWrite ∧
    (match step { State.reset with host := [.write (.w8 .vram 0x18000 1)] } with | .fault r => some r | _ => none) =
      some (.noSuchAddress .vram 0x18000) ∧
    (match step { State.reset with host := [.hook 3 (.w8 .io 0 0)] } with | .refused r => some r | _ => none) =
      some .hookOutOfPlace := by decide

/-! ### Witnesses for the hypotheses of the statements

Each names its statement. `at_ q` has its sequencer at `q` by definition, so `rfl` shows the premise on `seq`; the
values are at the boundaries of their ranges. -/

theorem witness_DecodeOfEncodeIsTheInstruction :
    [Instr.mode7 (disp 7 true), .aff1024 (bgc true true 3), .seText ⟨0x3FF, true, true, 15⟩, .seAff 255,
      .objShapeProhibited (key 3 3), .blendBlack (bld 3), .render].all Instr.wf = true := by decide

theorem witness_EveryWordHasOneMeaning :
    decode .objMapping [0x40, 0x00, 7] = .ok (.objMap1D ⟨0, 0, true, false, 0, false, 0⟩, [7]) ∧
      Selector.width .seAff ≤ [(0 : Byte)].length ∧ [(0 : Byte), 0, 0].length < Selector.width .objSize := by decide

theorem witness_StepRunsTheDecodedInstruction :
    (at_ (.line 159 (.compose 239))).seq = .line 159 (.compose 239) ∧
    (at_ (.line 159 (.compose 239))).hookDue 159 (.compose 239) = none ∧
    (at_ (.line 159 (.compose 239))).fetch (fetchPlace (.compose 239)) = some [0, 0] ∧
    decode .blendMode [0, 0] = .ok (.blendOff ⟨0, false, false, 0, 0, false, false, 0⟩, []) ∧
    (∀ l ph, (State.reset.withHost [.render]).seq ≠ .line l ph) ∧
    (State.reset.withHost [.render]).host = .render :: [] := by
  refine ⟨rfl, rfl, rfl, rfl, fun l ph h => ?_, rfl⟩
  cases h

/-- A due hook is excluded by `hookDue = none`; the entries stand at the last offsets of VRAM they can have. -/
theorem witness_StepReadsEachSelectorFromItsWord :
    ([.select .mode, .select (.render 127), .select (.gfx 127), .select (.size 127), .draw 0 (.textSize 3 239),
      .draw 0 (.textEntry 3 239 0x17FFE 7 7), .draw 0 (.textDepth 3 239 1023 15 7 7), .draw 0 (.affSize .bg3 239),
      .draw 0 (.affOverflow .bg3 239 1024 (-1) 1024), .draw 0 (.affEntry .bg3 239 0x17FFF 0xC000 7 7),
      .draw 0 (.objRender obj 7), .draw 0 (.objMap obj 7 239 7 7), .draw 0 (.objDepth obj 7 239 1 7 7),
      .compose 239] : List Phase).all (fun ph =>
        (at_ (.line 159 ph)).seq == .line 159 ph && ((at_ (.line 159 ph)).hookDue 159 ph).isNone) = true := by decide

theorem witness_EveryInstructionCompletesInItsPlace :
    ([(.mode3 (disp 0 true), .select .mode), (.objRegular (att 0 0 false 0), .select (.render 127)),
      (.objAffine (att 0 0 false 0), .draw 9 (.objRender obj 7)), (.objGfxNormal (att 0 0 false 0), .select (.gfx 127)),
      (.objSize8x8 (key 0 0), .select (.size 127)), (.text64x64 (bgc true true 3), .draw 0 (.textSize 3 239)),
      (.seText ⟨0, true, true, 0⟩, .draw 0 (.textEntry 3 239 0x17FFE 7 7)),
      (.bg8bpp (bgc true true 0), .draw 0 (.textDepth 3 239 1023 0 7 7)), (.aff128 (bgc true true 0), .draw 0 (.affSize
      .bg3 239)), (.affClip (bgc true true 0), .draw 0 (.affOverflow .bg3 239 128 (-1) 0)), (.seAff 255, .draw 0 (.affEntry
      .bg3 239 0 0xC000 7 7)), (.objMap2D (disp 0 true), .draw 0 (.objMap obj 7 239 7 7)), (.obj4bpp (att 0 0 true 0),
      .draw 0 (.objDepth obj 7 239 1023 7 7)), (.blendAlpha (bld 0), .compose 239)] : List (Instr × Phase)).all (fun e =>
        (at_ (.line 159 e.2)).seq == .line 159 e.2 && (fetchPlace e.2).sel == e.1.selector) = true := by decide

theorem witness_OutOfPlaceInstructionsAreRefused :
    Instr.seAff 0 ≠ .render ∧ (∀ l ph, (at_ .done).seq = .line l ph → (fetchPlace ph).sel ≠ Instr.selector (.seAff 0)) ∧
    (∀ l ph, (at_ (.line 0 (.compose 0))).seq = .line l ph → (fetchPlace ph).sel ≠ Instr.selector (.seAff 0)) := by
  refine ⟨by decide, fun l ph h => (by cases h), fun l ph h => (by cases h; decide)⟩

/-- Every Pixel of the empty row is legal. -/
theorem at_pixels (q : Machine.Seq) : (at_ q).pixelsLegal := by
  intro c
  have h : (at_ q).pixel c = Pixel.empty := by simp [State.pixel, at_, State.reset, Row.empty]
  rw [h]
  exact ⟨fun _ => ⟨rfl, rfl⟩, fun _ => rfl, fun h => absurd h (by decide)⟩

/-- A state with no fault, at a consistent position other than FAULT, is good. -/
theorem at_inv (q : Machine.Seq) (hq : q ≠ .fault) (hp : (at_ q).seqOk) : (at_ q).Inv :=
  ⟨rfl, at_pixels q, ⟨fun h => (by cases h), fun h => absurd h hq⟩, Nat.le_refl 0, hp⟩

/-- The last steps of a line, the first of one, and a draw step, are good states in which no hook is due. -/
theorem witness_EveryStepOfALineGoesOn :
    ((at_ (.line 159 (.compose 239))).Inv ∧ (at_ (.line 159 (.compose 239))).inLine ∧
      (at_ (.line 159 (.compose 239))).noHookDue) ∧
    ((at_ (.line 0 (.select .mode))).Inv ∧ (at_ (.line 0 (.select .mode))).inLine ∧
      (at_ (.line 0 (.select .mode))).noHookDue) := by
  refine ⟨⟨at_inv _ (by decide) ⟨rfl, rfl⟩, ⟨_, _, rfl⟩, ?_⟩, ⟨at_inv _ (by decide) trivial, ⟨_, _, rfl⟩, ?_⟩⟩ <;>
    (intro l ph h; cases h; rfl)

/-- A state that draws text layer 3, at a column whose entry is the last of VRAM. -/
def drawingText : State :=
  { at_ (.line 159 (.draw 3 (.textEntry 3 239 0x17FFE 7 7))) with layers := [.text 3] }

/-- The same for objects: the one object of the list, half off the left edge. -/
def drawingObj : State :=
  { at_ (.line 7 (.draw 0 (.objRender { obj with x := -4 } 7))) with objs := [{ obj with x := -4 }] }

/-- A state in FAULT. -/
def inFault : State := { at_ .fault with fault := some .badObjShape }

/-- Good states while a layer and an object are drawn, and in FAULT, that step to a next state or may be left by a host
write. -/
theorem witness_EveryStepKeepsTheInvariant :
    drawingText.Inv ∧ (∃ t, step drawingText = .next t) ∧ drawingObj.Inv ∧ (∃ t, step drawingObj = .next t) ∧
      inFault.Inv ∧ (inFault.withHost [.write (.w8 .pal 0x3FF 1)]).Inv ∧
      (∃ t, step (inFault.withHost [.write (.w8 .pal 0x3FF 1)]) = .next t) := by
  have px : (at_ .idle).pixelsLegal := at_pixels .idle
  exact ⟨⟨by decide, px, ⟨fun h => (by cases h), fun h => (by cases h)⟩, Nat.le_refl 0, ⟨rfl, by decide⟩⟩, ⟨_, rfl⟩,
    ⟨by decide, px, ⟨fun h => (by cases h), fun h => (by cases h)⟩, Nat.zero_le _, rfl⟩, ⟨_, rfl⟩,
    ⟨by decide, px, ⟨fun _ => rfl, fun _ => rfl⟩, Nat.le_refl 0, trivial⟩,
    ⟨by decide, px, ⟨fun _ => rfl, fun _ => rfl⟩, Nat.le_refl 0, trivial⟩, ⟨_, rfl⟩⟩

theorem witness_RenderLatchesAndStartsLineZero :
    State.reset.seq = .idle ∧ State.reset.fault = none ∧ (at_ .done).seq = .done ∧ (at_ .done).fault = none := by decide

theorem witness_RenderElsewhereDoesNotRun :
    inFault.seq = .fault ∧ ¬inFault.inLine ∧ inFault.fault.isSome = true ∧ (at_ (.line 159 (.compose 239))).inLine := by
  refine ⟨rfl, fun h => ?_, rfl, ⟨_, _, rfl⟩⟩
  obtain ⟨l, ph, h⟩ := h
  cases h

/-- The start of the last line; both instructions of the premise. -/
theorem witness_ModesZeroAndOneStartTheLine :
    (at_ (.line 159 (.select .mode))).seq = .line 159 (.select .mode) ∧
    (∃ (i : Instr) (lay : List Layer), i = .mode0 (disp 0 true) ∧ lay = [.text 0, .text 1, .text 2, .text 3]) ∧
    (∃ (i : Instr) (lay : List Layer), i = .mode1 (disp 1 true) ∧ lay = [.text 0, .text 1, .affine .bg2]) :=
  ⟨rfl, ⟨_, _, rfl, rfl⟩, ⟨_, _, rfl, rfl⟩⟩

theorem witness_ModeTwoStartsTheLine :
    (at_ (.line 159 (.select .mode))).seq = .line 159 (.select .mode) := by decide

/-- Modes 3 and 7, at the start of line 159. -/
theorem witness_BadModesTakeTheFault :
    [(3 : Byte), 7].all (fun m =>
      (with_ ⟨[(0x00, m)], [], [], []⟩ (.line 159 (.select .mode))).seq == .line 159 (.select .mode) &&
      decide (3 ≤ (((with_ ⟨[(0x00, m)], [], [], []⟩ (.line 159 (.select .mode))).mem.read16 .io 0x000).extractLsb' 0
        3).toNat)) = true ∧
    ∀ m, (with_ m (.line 159 (.select .mode))).noHookDue := by
  refine ⟨by decide, fun m l ph h => ?_⟩
  cases h
  rfl

/-- Each clause's premise: a column before the last and the last, line 158 and 159, box column 6 and 7 of 8, OAM
entry 126 and 127. -/
theorem witness_LoopsAdvanceInOrder :
    ((239 : Fin 240).val = (238 : Fin 240).val + 1) ∧ (239 : Fin 240).val = 239 ∧
    ((159 : Fin 160).val = (158 : Fin 160).val + 1) ∧ (159 : Fin 160).val = 159 ∧
    6 + 1 < obj.bw ∧ obj.bw ≤ 7 + 1 ∧ ((127 : Fin 128).val = (126 : Fin 128).val + 1) ∧ (127 : Fin 128).val = 127 := by
  decide

/-- Regular layers: the last column of layer 3, at the size, at the entry and at the texel, which is the last inside
VRAM in one and the first outside it in the other. -/
theorem witness_TextSizesLocateTheMapPixel :
    (at_ (.line 159 (.draw 3 (.textSize 3 239)))).seq = .line 159 (.draw 3 (.textSize 3 239)) := by decide

theorem witness_ScreenEntryAddress :
    [((0 : BitVec 2), 31, 31), (1, 63, 31), (2, 31, 63), (3, 63, 63)].all (fun e =>
      decide (e.2.1 < (if e.1 = 1 ∨ e.1 = 3 then 64 else 32)) && decide (e.2.2 < (if e.1 = 2 ∨ e.1 = 3 then 64 else 32)))
      = true ∧ seAddr 31 3 63 63 = 0x117FE := by decide

theorem witness_ScreenEntryGivesTileFlipsAndBank :
    (at_ (.line 159 (.draw 3 (.textEntry 3 239 0x17FFE 7 7)))).seq = .line 159 (.draw 3 (.textEntry 3 239 0x17FFE 7 7)) ∧
      (0x0C00 : Half).getLsbD 10 = true ∧ (0x0C00 : Half).getLsbD 11 = true ∧ (0 : Half).getLsbD 10 = false := by decide

theorem witness_FourBitTexelsReachTheirColumn :
    (at_ (.line 159 (.draw 3 (.textDepth 3 239 1023 15 7 7)))).seq = .line 159 (.draw 3 (.textDepth 3 239 1023 15 7 7)) := by
  decide

/-- Character base 3: tile 767's last byte is the last of VRAM, tile 768's first is the first beyond it. -/
theorem witness_EightBitTexelsReachTheirColumn :
    (at_ (drawing (.textDepth 3 239 767 15 7 7))).seq = drawing (.textDepth 3 239 767 15 7 7) ∧
    (at_ (drawing (.textDepth 3 239 768 15 0 0))).seq = drawing (.textDepth 3 239 768 15 0 0) ∧
    3 * 0x4000 + 767 * 64 + 7 * 8 + 7 < 0x18000 ∧ 0x18000 ≤ 3 * 0x4000 + 768 * 64 + 0 * 8 + 0 := by decide

theorem witness_OnlyEightBitBackgroundsReadOutsideVram :
    ((3 : BitVec 2) = 3 ∧ 768 ≤ (768 : BitVec 10).toNat) ∧ ¬((3 : BitVec 2) = 3 ∧ 768 ≤ (767 : BitVec 10).toNat) ∧
      ¬((2 : BitVec 2) = 3 ∧ 768 ≤ (1023 : BitVec 10).toNat) := by decide

/-- Both affine layers, at the last column of the last line. -/
theorem witness_AffineSizesLocateTheTexel :
    (at_ (.line 159 (.draw 1 (.affSize .bg3 239)))).seq = .line 159 (.draw 1 (.affSize .bg3 239)) ∧
      (at_ (.line 159 (.draw 1 (.affSize .bg2 239)))).seq = .line 159 (.draw 1 (.affSize .bg2 239)) := by decide

theorem witness_WrapMasksTheTexelIntoTheMap :
    (at_ (drawing (.affOverflow .bg3 239 1024 (-1) 1024))).seq = drawing (.affOverflow .bg3 239 1024 (-1) 1024) ∧
      1024 ∈ affSizes ∧ 128 ∈ affSizes := by decide

/-- −1 and S are outside, 0 and S − 1 inside. -/
theorem witness_ClipSkipsTexelsOutsideTheMap :
    (at_ (drawing (.affOverflow .bg2 239 128 127 0))).seq = drawing (.affOverflow .bg2 239 128 127 0) ∧
    ((127 : Int) = (127 : Nat) ∧ (0 : Int) = (0 : Nat) ∧ 127 < 128 ∧ 0 < 128) ∧
    (at_ (drawing (.affOverflow .bg2 239 128 (-1) 0))).seq = drawing (.affOverflow .bg2 239 128 (-1) 0) ∧
    ((-1 : Int) < 0 ∧ ((128 : Nat) : Int) ≤ 128) := by decide

/-- The last byte of tile 255 from the highest character base; the first offset beyond VRAM. -/
theorem witness_AffineTexelsReachTheirColumn :
    (at_ (drawing (.affEntry .bg3 239 0x17FFF 0xC000 7 7))).seq = drawing (.affEntry .bg3 239 0x17FFF 0xC000 7 7) ∧
    0xC000 ≤ 0xC000 ∧ 0xC000 + 255 * 64 + 7 * 8 + 7 < 0x18000 ∧
    (at_ (drawing (.affEntry .bg3 239 0 0x18000 0 0))).seq = drawing (.affEntry .bg3 239 0 0x18000 0 0) ∧
    0x18000 ≤ 0x18000 + 0 * 64 + 0 * 8 + 0 := by decide

theorem witness_HiddenEntriesAreSkipped :
    (at_ (.line 159 (.select (.render 127)))).seq = .line 159 (.select (.render 127)) := by decide

theorem witness_GraphicsModesSelectSkipOrFault :
    (at_ (.line 159 (.select (.gfx 127)))).seq = .line 159 (.select (.gfx 127)) := by decide

theorem witness_SizesTestTheLineAndShapeThreeFaults :
    (at_ (.line 159 (.select (.size 127)))).seq = .line 159 (.select (.size 127)) := by decide

/-- OAM entry 127 with, in turn: GFX 3; SHAPE 3; hidden with GFX 3 and SHAPE 3; a window. -/
theorem witness_EntryChecksFaultInOrder :
    let a0 (v : Byte) := (with_ ⟨[], [], [(1017, v)], []⟩ (.line 159 (.select (.render 127)))).mem.read16 .oam (8 * 127)
    (a0 0x0C).extractLsb' 8 2 ≠ 2 ∧ (a0 0x0C).extractLsb' 10 2 = 3 ∧
    (a0 0xC0).extractLsb' 8 2 ≠ 2 ∧ (a0 0xC0).extractLsb' 10 2 ≠ 2 ∧ (a0 0xC0).extractLsb' 10 2 ≠ 3 ∧
    (a0 0xC0).extractLsb' 14 2 = 3 ∧ (a0 0xCE).extractLsb' 8 2 = 2 ∧
    (a0 0xC8).extractLsb' 8 2 ≠ 2 ∧ (a0 0xC8).extractLsb' 10 2 = 2 := by decide

/-- Box column 0 of an object at x = 239 is the last screen column; at x = −1 and x = 240 it is off screen. -/
theorem witness_RegularObjectsFlipOverTheWholeObject :
    (at_ (drawing (.objRender { obj with x := 239 } 0))).seq = drawing (.objRender { obj with x := 239 } 0) ∧
    ({ obj with x := 239 }.x + ((0 : Nat) : Int) = ((239 : Fin 240).val : Int)) ∧
    ({ obj with x := -1 }.x + ((0 : Nat) : Int) < 0) ∧ (240 ≤ { obj with x := 240 }.x + ((0 : Nat) : Int)) := by decide

/-- Matrix 0 all zero: every texel is the centre, (4, 4); with PA = 1.0 box column 15 of the double box is texel 11,
outside. -/
theorem witness_AffineObjectsLookUpTheInverseTexel :
    (at_ (drawing (.objRender { obj with rm := 1 } 7))).seq = drawing (.objRender { obj with rm := 1 } 7) ∧
    ({ obj with rm := 1 }.x + ((7 : Nat) : Int) = ((7 : Fin 240).val : Int)) ∧
    ((0 * 3 + 0 * (-4 : Int)) / 256 + ((8 / 2 : Nat) : Int) = ((4 : Nat) : Int)) ∧ 4 < obj.w ∧ 4 < obj.h ∧
    ((obj.w : Int) ≤ (256 * ((15 : Int) - ((2 * 8 / 2 : Nat) : Int)) + 0) / 256 + ((8 / 2 : Nat) : Int)) ∧
    (240 ≤ { obj with x := 240 }.x + ((0 : Nat) : Int)) := by decide

/-- The object at the origin on line 4, box row 4; the box columns where the texel enters and leaves are 4 and 12. -/
theorem witness_IdentityDoubleSizeIsCentred :
    obj.w % 2 = 0 ∧ obj.h % 2 = 0 ∧ ((4 : Fin 160).val : Int) = obj.y + ((4 : Nat) : Int) ∧
    insideBy obj.w (affineSource obj ⟨0x100, 0, 0, 0x100⟩ 16 16 4 4).1 = true ∧
    insideBy obj.w (affineSource obj ⟨0x100, 0, 0, 0x100⟩ 16 16 4 12).1 = false := by decide

theorem witness_ObjectTileNumbers :
    (at_ (drawing (.objMap obj 7 239 7 7))).seq = drawing (.objMap obj 7 239 7 7) := by decide

theorem witness_ObjectTexelsReachTheirColumn :
    (at_ (drawing (.objDepth obj 7 239 1023 7 7))).seq = drawing (.objDepth obj 7 239 1023 7 7) := by decide

/-- Each clause has its own Pixel. -/
theorem witness_SetColorFillsTheTwoSlots :
    Pixel.empty.n = 0 ∧ (⟨1, 0, true, none⟩ : Pixel).n = 1 ∧ (⟨1, 0, true, none⟩ : Pixel).t0 = true ∧
      (⟨1, 0, false, none⟩ : Pixel).n = 1 ∧ (⟨1, 0, false, none⟩ : Pixel).t0 = false ∧
      (⟨2, 0, true, some 1⟩ : Pixel).n = 2 := by decide

theorem witness_FilledPixelsNeverChange :
    filled ⟨1, 0, false, none⟩ = true ∧ filled ⟨2, 0, true, some 1⟩ = true ∧ (⟨1, 0, true, none⟩ : Pixel).n ≠ 0 ∧
      (⟨2, 0, true, some 1⟩ : Pixel).n = 2 ∧ 2 ≤ [((0 : Color15), true, true), (1, false, false)].length := by decide

theorem witness_PaletteLookupsAndChannels : (15 : Byte).toNat < 16 ∧ 0x200 + 2 * (15 * 16 + 15) = 0x3FE := by decide

theorem witness_BlendSaturatesEachChannel : (16 ≤ 16 ∧ 0 ≤ 16) ∧ red ∈ [red, green, blue] ∧ 16 + 0 = 16 := by
  refine ⟨by decide, by simp, rfl⟩

/-- The last column of the last line, and a Pixel for each clause. -/
theorem witness_BlendOffAndAlphaComposeTheColumn :
    (at_ (.line 159 (.compose 239))).seq = .line 159 (.compose 239) ∧
    [(⟨2, 0, true, some 1⟩ : Pixel), ⟨2, 0, true, none⟩, ⟨1, 0, true, none⟩, ⟨1, 0, false, none⟩, Pixel.empty].all
      (fun p => (composing ⟨[], [], [], []⟩ p).pixel 0 == p) = true ∧
    (bld 1).bottomBackdrop = true ∧ (⟨0, false, false, 1, 0, false, false, 0⟩ : BldCnt).bottomBackdrop = false := by decide

theorem witness_FadesTowardsWhiteAndBlack :
    (at_ (.line 159 (.compose 239))).seq = .line 159 (.compose 239) ∧
    ((composing ⟨[], [], [], []⟩ ⟨1, 5, false, none⟩).pixel 0).n ≠ 0 ∧
    ((composing ⟨[], [], [], []⟩ Pixel.empty).pixel 0).n = 0 ∧
    (⟨0, false, true, 2, 0, false, false, 0⟩ : BldCnt).topBackdrop = true ∧ (bld 2).topBackdrop = false := by decide

/-- A text column that changes its Pixel; the last box column of an object, which moves the cursor from 0 to 1; the last
column of a layer, which drops it; OBJ_HIDDEN, which ends an object at once. -/
theorem witness_DrawingChangesOnlyItsColumn :
    (pixOf 9 (exec (.bg4bpp (bgc false false 0)) (with_ ⟨[], [(0x4000, 1)], [], [(2, 7)]⟩ (drawing (.textDepth 0 9 0 0 0
      0))))) = some ⟨1, 7, false, none⟩ ∧
    (with_ ⟨[], [(0x4000, 1)], [], [(2, 7)]⟩ (drawing (.textDepth 0 9 0 0 0 0))).pixel 9 = Pixel.empty ∧
    (match exec (.objRegular (att 0 0 false 0)) (at_ (drawing (.objRender { obj with x := -8 } 7))) with
      | .next t => t.k
      | _ => 0) = 1 ∧ obj.bw ≤ 7 + 1 ∧
    (match exec (.affClip (bgc false false 0)) { at_ (drawing (.affOverflow .bg2 239 128 (-1) 0)) with
        layers := [.affine .bg2] } with
      | .next t => t.layers
      | _ => [.text 0]) = [] ∧
    (match exec (.objHidden (att 2 0 false 0)) (at_ (drawing (.objRender obj 0))) with
      | .next t => t.k
      | _ => 0) = 1 := by decide

theorem witness_SelectingDrawsNothing :
    (seqOf (exec (.mode7 (disp 7 true)) (at_ (.line 159 (.select .mode))))).isSome = true ∧
    (seqOf (exec (.objHidden (att 2 0 false 0)) (at_ (.line 159 (.select (.render 127)))))).isSome = true ∧
    ScanPos.render 127 ≠ .mode := by decide

/-- Cell (0, 0) is written and changes; the last column of the last line is composed; the sink changes too when the host
hands one over. -/
theorem witness_ComposingWritesOneCell :
    cellOf 0 0 (exec (.blendOff (bld 0)) (composing ⟨[], [], [], [(0, 5)]⟩ Pixel.empty)) = some 5 ∧
    cellOf 0 0 (step (composing ⟨[], [], [], [(0, 5)]⟩ Pixel.empty)) = some 5 ∧
    (composing ⟨[], [], [], [(0, 5)]⟩ Pixel.empty).cell 0 0 = 0 ∧
    seqOf (exec (.blendOff (bld 0)) (at_ (.line 159 (.compose 239)))) = some .done := by decide

/-- A sink with its last line white. -/
def marked : Sink := Sink.blank.set 159 (Vector.replicate 240 0x7FFF)

theorem witness_ComposingWritesOneCell_sink :
    cellOf 159 239 (step (State.reset.withHost [.sink marked])) = some 0x7FFF ∧
      State.reset.cell 159 239 = 0 := by
  refine ⟨by decide, by simp [State.cell, State.reset, Sink.blank]⟩

/-- From an idle state, one program for each clause: the last byte of PAL, the last word of VRAM, a sink, the first offsets
beyond PAL and VRAM, an odd word, a hook's write, no move. -/
theorem witness_HostWritesStoreTheirBytes :
    State.reset.mem.wf = true ∧ State.reset.seq = .idle ∧ State.reset.host = [] ∧
    0x3FF < Region.size .pal ∧ 0x17FFE < Region.size .vram ∧ 0x17FFE % 2 = 0 ∧ Region.size .pal ≤ 0x400 ∧
    Region.size .vram ≤ 0x18000 ∧ 0x18000 % 2 = 0 ∧ 0x17FFF % 2 = 1 ∧
    ([.write (.w8 .pal 0x3FF 1), .write (.w16 .vram 0x17FFE 1), .sink marked, .write (.w8 .pal 0x400 1),
      .write (.w16 .vram 0x18000 1), .write (.w16 .vram 0x17FFF 1), .hook 3 (.w8 .io 0 0)] : List HostMove).map
        (fun m => match step (State.reset.withHost [m]) with
          | .next t => t.host == []
          | _ => false) = [true, true, true, false, false, false, false] := by decide

theorem witness_HostWritesStoreTheirBytes_idle : ¬State.reset.inLine := by
  rintro ⟨l, ph, h⟩
  cases h

/-- The hook of line 158, at the start of line 159: the last byte of OAM, its last word, and the offset after it. -/
theorem witness_OnlyTheLineHookWritesInsideAFrame :
    let s (w : HostWrite) : State := { at_ (.line 159 (.select .mode)) with cfg := ⟨true, .bg2First⟩, host := [.hook 158 w] }
    (∀ w, (s w).cfg.lineHook = true ∧ (s w).seq = .line 159 (.select .mode) ∧ (s w).inLine ∧
      (s w).host = .hook 158 w :: []) ∧
    158 + 1 = (159 : Fin 160).val ∧
    seqOf (step (s (.w8 .oam 0x3FF 1))) = some (.line 159 (.select .mode)) ∧
    seqOf (step (s (.w16 .oam 0x3FE 1))) = some (.line 159 (.select .mode)) ∧
    seqOf (step (s (.w8 .oam 0x400 1))) = none ∧ 0x3FF < Region.size .oam ∧ 0x3FE % 2 = 0 := by
  refine ⟨fun w => ⟨rfl, rfl, ⟨_, _, rfl⟩, rfl⟩, by decide⟩

theorem witness_LaunchStatesAreGood : (⟨[(0x3FF, 1)], [(0x17FFF, 1)], [(0x3FF, 1)], [(0x3FF, 1)]⟩ : Memory).wf = true := by
  decide

theorem witness_LinesAscendAndNeverGoBack :
    seqOf (step (at_ (.line 159 (.compose 239)))) = some .done ∧
      seqOf (step (at_ (.line 158 (.compose 239)))) = some (.line 159 (.select .mode)) ∧
      seqOf (step (at_ (.line 158 (.compose 238)))) = some (.line 158 (.compose 239)) := by decide

theorem witness_FaultIsTerminal :
    (inFault.fault.isSome = true ↔ inFault.seq = .fault) ∧ inFault.fault = some .badObjShape ∧
    (seqOf (step (inFault.withHost [.write (.w8 .io 0 0)]))) = some .fault ∧
    (cellOf 159 239 (step (inFault.withHost [.sink marked]))) = some 0x7FFF ∧ inFault.host = [] ∧
    (inFault.withHost [.render]).host = .render :: [] := by
  refine ⟨⟨fun _ => rfl, fun _ => rfl⟩, by decide⟩

/-- The three reasons, each raised by a step from a state with no fault. -/
theorem witness_OnlyThreeReasonsAreRaised :
    (at_ (.line 159 (.select .mode))).fault = none ∧
    faultOf (step (with_ ⟨[(0x00, 7)], [], [], []⟩ (.line 159 (.select .mode)))) = some (some .badMode, .fault) ∧
    faultOf (step (with_ ⟨[], [], [(1017, 0x0C)], []⟩ (.line 159 (.select (.gfx 127))))) =
      some (some .badObjMode, .fault) ∧
    faultOf (step (with_ ⟨[], [], [(1017, 0xC0)], []⟩ (.line 159 (.select (.size 127))))) =
      some (some .badObjShape, .fault) := by decide

/-- Memories that agree under a mask byte by byte, on the listed offsets of a region, agree. -/
theorem agreeUnder_of_io {mask : Region → Nat → Byte} {io : List Host.Cell} (h : ∀ off, cellsRead io off &&& mask .io off = 0) :
    agreeUnder mask State.reset.mem ⟨io, [], [], []⟩ := by
  intro r off
  cases r with
  | io => simpa [Memory.read8, Memory.cells, State.reset, cellsRead, unlisted] using h off
  | vram => rfl
  | oam => rfl
  | pal => rfl

/-- A memory that differs from the empty one in every ignored bit of DISPCNT and BG0CNT, in BG1HOFS bit 9, BG2X, WINOUT,
BLDCNT bit 14 and the last offset of IO; and for RENDER, one that differs in DISPCNT and in bits 15:12 of BG2X_H. -/
theorem witness_UnreadRegistersHaveNoEffect :
    (at_ (.line 159 (.select .mode))).inLine ∧ (at_ (.line 159 (.select .mode))).noHookDue ∧
    agreeUnder (lineMask (.line 159 (.select .mode))) (at_ (.line 159 (.select .mode))).mem
      ⟨[(0x00, 0xB8), (0x01, 0xE0), (0x08, 0x70), (0x09, 0x20), (0x15, 0x02), (0x28, 0x01), (0x4B, 0x01), (0x51, 0x40),
        (0x3FF, 0x01)], [], [], []⟩ ∧
    (¬State.reset.inLine ∧ (State.reset.withHost [.render]).host = .render :: [] ∧
      agreeUnder requestMask State.reset.mem ⟨[(0x00, 0xFF), (0x2B, 0xF0)], [], [], []⟩) := by
  refine ⟨⟨_, _, rfl⟩, fun l ph h => (by cases h; rfl), agreeUnder_of_io fun off => ?_, ?_, rfl, agreeUnder_of_io fun off => ?_⟩
  · simp only [cellsRead]
    repeat' (first | (split; · subst_vars; decide))
    simp [unlisted]
  · rintro ⟨l, ph, h⟩
    cases h
  · simp only [cellsRead]
    repeat' (first | (split; · subst_vars; decide))
    simp [unlisted]

theorem witness_RegularObjectTilesEqualPixels : obj.w % 8 = 0 := by decide

theorem witness_ColumnsAreTheRulesLoopBodies :
    drawingText.layers.head? = some (.text 3) ∧
    (at_ (.line 159 (.draw 3 (.textSize 3 239)))).seq = .line 159 (.draw 3 (.textSize 3 239)) ∧
    (at_ (.line 159 (.draw 1 (.affSize .bg3 239)))).seq = .line 159 (.draw 1 (.affSize .bg3 239)) := by decide

theorem witness_LineIsTheRulesLineStep :
    (at_ (.line 159 (.select .mode))).seq = .line 159 (.select .mode) ∧ (at_ (.line 159 (.select .mode))).noHookDue :=
  ⟨rfl, fun l ph h => by cases h; rfl⟩

/-- From reset without a hook, and from DONE with a legal hook write between lines 158 and 159. -/
theorem witness_FrameIsTheRulesRenderFrame :
    ((State.reset.withHost [.render]).asksForAFrame [] ∧ (State.reset.withHost [.render]).hooksLegal []) ∧
    (let s := ({ at_ .done with cfg := ⟨true, .bg2First⟩ } : State).withHost [.render, .hook 158 (.w16 .pal 0x3FE 1)]
     s.asksForAFrame [.hook 158 (.w16 .pal 0x3FE 1)] ∧ s.cfg.lineHook = true ∧
       s.hooksLegal [.hook 158 (.w16 .pal 0x3FE 1)]) := by
  refine ⟨⟨⟨.inl rfl, rfl, rfl⟩, fun h => (by cases h)⟩, ⟨.inr rfl, rfl, rfl⟩, rfl, fun _ l w h => ?_⟩
  simp only [List.mem_singleton, HostMove.hook.injEq] at h
  obtain ⟨-, rfl⟩ := h
  exact ⟨rfl, by decide⟩

theorem witness_EveryRequestEnds :
    (State.reset.withHost [.render]).asksForAFrame [] ∧ (State.reset.withHost [.render]).hooksLegal [] ∧
      (State.reset.withHost [.render]).cfg.lineHook = false :=
  ⟨⟨.inl rfl, rfl, rfl⟩, fun h => (by cases h), rfl⟩

end Sys2Proof.Tests
end

section
/-! SUPPORT. What an instruction does where its selector is decoded: one equation per meaning, the ends of the loops
case by case, and from these everything an instruction can do in a line (`LineMove`), that it does it (R266), and that
elsewhere it is refused (R99). -/

namespace Sys2Proof.Machine

open Sys2Proof.Config

/-! ### The ends of the loops -/

/-- The column after `c`, or the end of the layer after column 239 (R127). -/
theorem endTextCol_cases (s : State) (l : Fin 160) (j : Nat) (n : Fin 4) (c : Fin 240) :
    (∃ c' : Fin 240, c'.val = c.val + 1 ∧ s.endTextCol l j n c = s.goto (.line l (.draw j (.textSize n c')))) ∨
    (c.val = 239 ∧ s.endTextCol l j n c = s.endLayer l j) := by
  simp only [State.endTextCol, nextCol]
  by_cases h : c.val + 1 < 240
  · exact .inl ⟨⟨c.val + 1, h⟩, rfl, by rw [dif_pos h]⟩
  · exact .inr ⟨by omega, by rw [dif_neg h]⟩

/-- The column after `c`, or the end of the layer after column 239 (R174). -/
theorem endAffCol_cases (s : State) (l : Fin 160) (j : Nat) (n : AffLayer) (c : Fin 240) :
    (∃ c' : Fin 240, c'.val = c.val + 1 ∧ s.endAffCol l j n c = s.goto (.line l (.draw j (.affSize n c')))) ∨
    (c.val = 239 ∧ s.endAffCol l j n c = s.endLayer l j) := by
  simp only [State.endAffCol, nextCol]
  by_cases h : c.val + 1 < 240
  · exact .inl ⟨⟨c.val + 1, h⟩, rfl, by rw [dif_pos h]⟩
  · exact .inr ⟨by omega, by rw [dif_neg h]⟩

/-- The box column after `ix`, or the end of the object after its last (R196, R200). -/
theorem endObjCol_cases (s : State) (l : Fin 160) (j : Nat) (o : ObjDesc) (ix : Nat) :
    (ix + 1 < o.bw ∧ s.endObjCol l j o ix = s.goto (.line l (.draw j (.objRender o (ix + 1))))) ∨
    (o.bw ≤ ix + 1 ∧ s.endObjCol l j o ix = s.endObj l j) := by
  unfold State.endObjCol
  by_cases h : ix + 1 < o.bw
  · exact .inl ⟨h, if_pos h⟩
  · exact .inr ⟨by omega, if_neg h⟩

/-- The entry after `e`, or the end of the scan after entry 127 (R190). -/
theorem endEntry_cases (s : State) (l : Fin 160) (e : Fin 128) :
    (∃ e' : Fin 128, e'.val = e.val + 1 ∧ s.endEntry l e = s.goto (.line l (.select (.render e')))) ∨
    (e.val = 127 ∧ s.endEntry l e = s.endSelect l) := by
  simp only [State.endEntry, nextObj]
  by_cases h : e.val + 1 < 128
  · exact .inl ⟨⟨e.val + 1, h⟩, rfl, by rw [dif_pos h]⟩
  · exact .inr ⟨by omega, by rw [dif_neg h]⟩

/-- The column after `c`; after column 239 the next line; after line 159 the end of the frame (R222, R224). -/
theorem endCompose_cases (s : State) (l : Fin 160) (c : Fin 240) :
    (∃ c' : Fin 240, c'.val = c.val + 1 ∧ s.endCompose l c = s.goto (.line l (.compose c'))) ∨
    (c.val = 239 ∧ ∃ l' : Fin 160, l'.val = l.val + 1 ∧ s.endCompose l c = s.goto (.line l' (.select .mode))) ∨
    (c.val = 239 ∧ l.val = 159 ∧ s.endCompose l c = s.goto .done) := by
  simp only [State.endCompose, nextCol, nextLine]
  by_cases hc : c.val + 1 < 240
  · exact .inl ⟨⟨c.val + 1, hc⟩, rfl, by rw [dif_pos hc]⟩
  by_cases hl : l.val + 1 < 160
  · exact .inr (.inl ⟨by omega, ⟨l.val + 1, hl⟩, rfl, by rw [dif_neg hc, dif_pos hl]⟩)
  · exact .inr (.inr ⟨by omega, by omega, by rw [dif_neg hc, dif_neg hl]⟩)

/-! ### The addresses of screen entries -/

/-- A screen entry of a regular map is in VRAM, whatever the base block (R125). -/
theorem seAddr_in_vram (sbb : BitVec 5) {size : BitVec 2} {tx ty : Nat} (hx : tx < textWt size)
    (hy : ty < textHt size) : seAddr sbb size tx ty + 2 ≤ Region.size .vram := by
  have hb := sbb.isLt
  have hx64 : tx < 64 := hx.trans_le (by unfold textWt; split <;> omega)
  have hy64 : ty < 64 := hy.trans_le (by unfold textHt; split <;> omega)
  have hq : textQuadrant size tx ty ≤ 3 := by
    unfold textQuadrant
    split <;> omega
  simp only [seAddr, Region.size]
  omega

/-- The byte of an affine map is in VRAM, whatever the base block (R172). -/
theorem affEntryAddr_in_vram (sbb : BitVec 5) {size tx ty : Nat} (hs : size ∈ affSizes) (hx : tx < size)
    (hy : ty < size) : affEntryAddr sbb size tx ty + 1 ≤ Region.size .vram := by
  have hb := sbb.isLt
  simp only [affSizes, List.mem_cons, List.not_mem_nil, or_false] at hs
  simp only [affEntryAddr, Region.size]
  rcases hs with rfl | rfl | rfl | rfl <;> omega

/-- A texel coordinate inside a map is below its size (R171). -/
theorem toNat_lt_of_insideBy {size : Nat} {t : Int} (h : insideBy size t = true) : t.toNat < size := by
  simp only [insideBy, Bool.and_eq_true, decide_eq_true_eq] at h
  omega

/-- A wrapped texel coordinate is below the map's size (R170). -/
theorem wrapTo_toNat_lt {size : Nat} (hs : 0 < size) (t : Int) : (wrapTo size t).toNat < size := by
  have h0 := Int.emod_nonneg t (b := size) (by omega)
  have h1 := Int.emod_lt_of_pos t (b := size) (by omega)
  simp only [wrapTo]
  omega

/-- Every affine map has a size. -/
theorem pos_of_mem_affSizes {size : Nat} (h : size ∈ affSizes) : 0 < size := by
  simp only [affSizes, List.mem_cons, List.not_mem_nil, or_false] at h
  omega

/-! ### VRAM reads -/

/-- Reading VRAM changes at most the count of the reads beyond it (R65, R66). -/
theorem vramByte_state (s : State) (off : Nat) : (s.vramByte off).2 = s ∨ (s.vramByte off).2 = s.countOob := by
  by_cases h : off < Region.size .vram
  · exact .inl (by rw [vramByte_in h])
  · exact .inr (by rw [vramByte_out (by omega)])

/-! ### One equation per meaning, in its place -/

section InPlace

variable {s : State} {l : Fin 160} {j : Nat}

/-- MODE0 and MODE1 at the start of a line (R221). -/
theorem startM01_at (hs : s.seq = .line l (.select .mode)) (lay : List Layer) (d : DispCnt) :
    startM01 lay d s = .next (if d.objEn then
        (s.startLine.withLayers (sortBy s.layerBefore lay)).goto (.line l (.select (.render 0)))
      else (s.startLine.withLayers (sortBy s.layerBefore lay)).startDraw l 0) := by
  simp only [startM01, hs]
  split <;> rfl

/-- MODE2 at the start of a line (R223). -/
theorem execMode2_at (hs : s.seq = .line l (.select .mode)) (d : DispCnt) :
    exec (.mode2 d) s = .next ((s.startLine.withLayers (mode2Layers s)).startDraw l 0) := by
  simp only [exec, execMode2, hs]

/-- MODE3–MODE7 at the start of a line (R262). -/
theorem badMode_at (hs : s.seq = .line l (.select .mode)) :
    badMode s = .next (s.startLine.raiseFatal .badMode) := by
  simp only [badMode, hs]

/-- The map size at a column of a regular layer (R124). -/
theorem textLocate_at {n : Fin 4} {c : Fin 240} (hs : s.seq = .line l (.draw j (.textSize n c)))
    (size : BitVec 2) (b : BgCnt) :
    textLocate size b s = .next (s.goto (.line l (.draw j (.textEntry n c
      (seAddr b.sbb size ((c.val + (s.bgData n).hofs.toNat) % (8 * textWt size) / 8)
        ((l.val + (s.bgData n).vofs.toNat) % (8 * textHt size) / 8))
      (Fin.ofNat 8 ((c.val + (s.bgData n).hofs.toNat) % (8 * textWt size)))
      (Fin.ofNat 8 ((l.val + (s.bgData n).vofs.toNat) % (8 * textHt size))))))) := by
  simp only [textLocate, hs]

/-- A regular screen entry (R126). -/
theorem execSeText_at {n : Fin 4} {c : Fin 240} {addr : Nat} {fx fy : Fin 8}
    (hs : s.seq = .line l (.draw j (.textEntry n c addr fx fy))) (e : SeText) :
    exec (.seText e) s = .next (s.goto (.line l (.draw j (.textDepth n c e.tile e.bank
      (if e.hflip then fx.rev else fx) (if e.vflip then fy.rev else fy))))) := by
  simp only [exec, execSeText, hs]

/-- The texel of a 4bpp regular layer (R140, R157). -/
theorem execBg4bpp_at {n : Fin 4} {c : Fin 240} {tile : BitVec 10} {bank : BitVec 4} {px py : Fin 8}
    (hs : s.seq = .line l (.draw j (.textDepth n c tile bank px py))) (b : BgCnt) :
    exec (.bg4bpp b) s = .next (((s.bgTexel4 b.cbb tile px py).2.plotBg n c (s.bgTexel4 b.cbb tile px py).1
      (s.palette4 .bg bank (s.bgTexel4 b.cbb tile px py).1)).endTextCol l j n c) := by
  simp only [exec, execBg4bpp, hs]

/-- The texel of an 8bpp regular layer (R140, R157). -/
theorem execBg8bpp_at {n : Fin 4} {c : Fin 240} {tile : BitVec 10} {bank : BitVec 4} {px py : Fin 8}
    (hs : s.seq = .line l (.draw j (.textDepth n c tile bank px py))) (b : BgCnt) :
    exec (.bg8bpp b) s = .next (((s.bgTexel8 b.cbb tile px py).2.plotBg n c (s.bgTexel8 b.cbb tile px py).1
      (s.palette8 .bg (s.bgTexel8 b.cbb tile px py).1)).endTextCol l j n c) := by
  simp only [exec, execBg8bpp, hs]

/-- The map size at a column of an affine layer (R168). -/
theorem affLocate_at {n : AffLayer} {c : Fin 240} (hs : s.seq = .line l (.draw j (.affSize n c))) (size : Nat) :
    affLocate size s = .next (s.goto (.line l (.draw j (.affOverflow n c size (affCoord (s.affData n) l c).1
      (affCoord (s.affData n) l c).2)))) := by
  simp only [affLocate, hs]

/-- AFF_CLIP at a texel (R171). -/
theorem execAffClip_at {n : AffLayer} {c : Fin 240} {size : Nat} {tx ty : Int}
    (hs : s.seq = .line l (.draw j (.affOverflow n c size tx ty))) (b : BgCnt) :
    exec (.affClip b) s = .next (if insideBy size tx && insideBy size ty then
        s.goto (.line l (.draw j (affEntryPos b n c size tx.toNat ty.toNat)))
      else s.endAffCol l j n c) := by
  simp only [exec, execAffClip, hs]
  split <;> rfl

/-- AFF_WRAP at a texel (R170). -/
theorem execAffWrap_at {n : AffLayer} {c : Fin 240} {size : Nat} {tx ty : Int}
    (hs : s.seq = .line l (.draw j (.affOverflow n c size tx ty))) (b : BgCnt) :
    exec (.affWrap b) s = .next (s.goto (.line l (.draw j
      (affEntryPos b n c size (wrapTo size tx).toNat (wrapTo size ty).toNat)))) := by
  simp only [exec, execAffWrap, hs]

/-- The byte of an affine map (R173). -/
theorem execSeAff_at {n : AffLayer} {c : Fin 240} {addr base : Nat} {fx fy : Fin 8}
    (hs : s.seq = .line l (.draw j (.affEntry n c addr base fx fy))) (tile : BitVec 8) :
    exec (.seAff tile) s = .next (((s.affTexel base tile fx fy).2.plotBg n.bg c (s.affTexel base tile fx fy).1
      (s.palette8 .bg (s.affTexel base tile fx fy).1)).endAffCol l j n c) := by
  simp only [exec, execSeAff, hs]

/-- OBJ_REGULAR in the scan (R190). -/
theorem execObjRegular_scan {e : Fin 128} (hs : s.seq = .line l (.select (.render e))) (a : Attr0) :
    exec (.objRegular a) s = .next (s.goto (.line l (.select (.gfx e)))) := by
  simp only [exec, execObjRegular, hs]

/-- OBJ_AFFINE in the scan (R190). -/
theorem execObjAffine_scan {e : Fin 128} (hs : s.seq = .line l (.select (.render e))) (a : Attr0) :
    exec (.objAffine a) s = .next (s.goto (.line l (.select (.gfx e)))) := by
  simp only [exec, execObjAffine, hs]

/-- OBJ_AFFINE_DOUBLE in the scan (R190). -/
theorem execObjAffineDouble_scan {e : Fin 128} (hs : s.seq = .line l (.select (.render e))) (a : Attr0) :
    exec (.objAffineDouble a) s = .next (s.goto (.line l (.select (.gfx e)))) := by
  simp only [exec, execObjAffineDouble, hs]

/-- OBJ_HIDDEN in the scan (R186). -/
theorem execObjHidden_scan {e : Fin 128} (hs : s.seq = .line l (.select (.render e))) (a : Attr0) :
    exec (.objHidden a) s = .next (s.endEntry l e) := by
  simp only [exec, execObjHidden, hs]

/-- The graphics modes that are drawn, in the scan (R190, R202). -/
theorem drawnGfx_at {e : Fin 128} (hs : s.seq = .line l (.select (.gfx e))) :
    drawnGfx s = .next (s.goto (.line l (.select (.size e)))) := by
  simp only [drawnGfx, hs]

/-- OBJ_GFX_WINDOW in the scan (R187). -/
theorem execObjGfxWindow_at {e : Fin 128} (hs : s.seq = .line l (.select (.gfx e))) (a : Attr0) :
    exec (.objGfxWindow a) s = .next (s.endEntry l e) := by
  simp only [exec, execObjGfxWindow, hs]

/-- OBJ_GFX_PROHIBITED in the scan (R188). -/
theorem execObjGfxProhibited_at {e : Fin 128} (hs : s.seq = .line l (.select (.gfx e))) (a : Attr0) :
    exec (.objGfxProhibited a) s = .next (s.raiseFatal .badObjMode) := by
  simp only [exec, execObjGfxProhibited, hs]

/-- The twelve sizes in the scan (R189, R190). -/
theorem sizedObj_at {e : Fin 128} (hs : s.seq = .line l (.select (.size e))) (w h : Nat) (key : ObjKey) :
    sizedObj w h key s = .next ((if (objDecode e key (s.objAttr2 e) w h).onLine l
      then s.withObjs (s.objs ++ [objDecode e key (s.objAttr2 e) w h]) else s).endEntry l e) := by
  simp only [sizedObj, hs]

/-- OBJ_SHAPE_PROHIBITED in the scan (R188). -/
theorem execObjShapeProhibited_at {e : Fin 128} (hs : s.seq = .line l (.select (.size e))) (k : ObjKey) :
    exec (.objShapeProhibited k) s = .next (s.raiseFatal .badObjShape) := by
  simp only [exec, execObjShapeProhibited, hs]

variable {o : ObjDesc} {ix : Nat}

/-- OBJ_REGULAR at a box column (R196). -/
theorem execObjRegular_draw (hs : s.seq = .line l (.draw j (.objRender o ix))) (a : Attr0) :
    exec (.objRegular a) s = .next (regularObjCol s l j o ix) := by
  simp only [exec, execObjRegular, hs]

/-- OBJ_AFFINE at a box column (R200). -/
theorem execObjAffine_draw (hs : s.seq = .line l (.draw j (.objRender o ix))) (a : Attr0) :
    exec (.objAffine a) s = .next (affineObjCol o.w o.h s l j o ix) := by
  simp only [exec, execObjAffine, hs]

/-- OBJ_HIDDEN at a box column: the object's draw step ends (R186). -/
theorem execObjHidden_draw (hs : s.seq = .line l (.draw j (.objRender o ix))) (a : Attr0) :
    exec (.objHidden a) s = .next (s.endObj l j) := by
  simp only [exec, execObjHidden, hs]

/-- OBJ_AFFINE_DOUBLE at a box column (R198, R200). -/
theorem execObjAffineDouble_draw (hs : s.seq = .line l (.draw j (.objRender o ix))) (a : Attr0) :
    exec (.objAffineDouble a) s = .next (affineObjCol (2 * o.w) (2 * o.h) s l j o ix) := by
  simp only [exec, execObjAffineDouble, hs]

variable {c : Fin 240} {px py : Nat}

/-- OBJMAP_2D at an object's pixel (R193). -/
theorem execObjMap2D_at (hs : s.seq = .line l (.draw j (.objMap o ix c px py))) (d : DispCnt) :
    exec (.objMap2D d) s =
      .next (s.goto (.line l (.draw j (.objDepth o ix c (objTile2D o (px / 8) (py / 8)) px py)))) := by
  simp only [exec, execObjMap2D, hs]

/-- OBJMAP_1D at an object's pixel (R193). -/
theorem execObjMap1D_at (hs : s.seq = .line l (.draw j (.objMap o ix c px py))) (d : DispCnt) :
    exec (.objMap1D d) s =
      .next (s.goto (.line l (.draw j (.objDepth o ix c (objTile1D o (px / 8) (py / 8)) px py)))) := by
  simp only [exec, execObjMap1D, hs]

variable {tn : Nat}

/-- The texel of a 4bpp object (R158, R195). -/
theorem execObj4bpp_at (hs : s.seq = .line l (.draw j (.objDepth o ix c tn px py))) (a : Attr0) :
    exec (.obj4bpp a) s = .next ((s.plotObj c (s.objTexel4 tn px py).1
      (s.palette4 .obj o.pb (s.objTexel4 tn px py).1)).endObjCol l j o ix) := by
  simp only [exec, execObj4bpp, hs, objTexel4_state]

/-- The texel of an 8bpp object (R158, R195). -/
theorem execObj8bpp_at (hs : s.seq = .line l (.draw j (.objDepth o ix c tn px py))) (a : Attr0) :
    exec (.obj8bpp a) s = .next ((s.plotObj c (s.objTexel8 tn px py).1
      (s.palette8 .obj (s.objTexel8 tn px py).1)).endObjCol l j o ix) := by
  simp only [exec, execObj8bpp, hs, objTexel8_state]

/-- The four blend modes at a column to compose (R248). -/
theorem composeCol_at (hs : s.seq = .line l (.compose c)) (f : Pixel → Color15) :
    composeCol f s = .next ((s.frameWrite l c (f (s.pixel c))).endCompose l c) := by
  simp only [composeCol, hs]

end InPlace

/-! ### Out of its place, an instruction is refused -/

/-- Away from the place that decodes its selector, a selector's meaning is refused (R99): each matches on the place and
has no other branch. -/
theorem exec_outOfPlace {i : Instr} {s : State} (hi : i ≠ .render)
    (h : ∀ l ph, s.seq = .line l ph → (fetchPlace ph).sel ≠ i.selector) : exec i s = .refused .outOfPlace := by
  cases i
  case render => exact absurd rfl hi
  case objRegular | objAffine | objHidden | objAffineDouble =>
    simp only [exec, execObjRegular, execObjAffine, execObjHidden, execObjAffineDouble]
    split
    · exact absurd rfl (h _ _ ‹_›)
    · exact absurd rfl (h _ _ ‹_›)
    · rfl
  all_goals
    simp only [exec, execMode0, execMode1, execMode2, execMode3, execMode4, execMode5, execMode6, execMode7, startM01,
      badMode, execText32x32, execText64x32, execText32x64, execText64x64, textLocate, execSeText, execBg4bpp,
      execBg8bpp, execAff128, execAff256, execAff512, execAff1024, affLocate, execAffClip, execAffWrap, execSeAff,
      execObjGfxNormal, execObjGfxSemitrans, drawnGfx, execObjGfxWindow, execObjGfxProhibited, execObjSize8x8,
      execObjSize16x16, execObjSize32x32, execObjSize64x64, execObjSize16x8, execObjSize32x8, execObjSize32x16,
      execObjSize64x32, execObjSize8x16, execObjSize8x32, execObjSize16x32, execObjSize32x64, sizedObj,
      execObjShapeProhibited, execObjMap2D, execObjMap1D, execObj4bpp, execObj8bpp, execBlendOff, execBlendAlpha,
      execBlendWhite, execBlendBlack, composeCol]
    split
    · exact absurd rfl (h _ _ ‹_›)
    · rfl

/-! ### Everything an instruction can do in a line -/

/-- The OAM entry a position of the object scan stands at. -/
def ScanPos.entry : ScanPos → Option (Fin 128)
  | .mode => none
  | .render e | .gfx e | .size e => some e

/-- Everything instruction `i` can do at phase position `ph` of line `l`, with the state it leads to from `s`. A texel
read may have counted one read beyond VRAM, in the state `u`. -/
inductive LineMove (s : State) (l : Fin 160) : Instr → Phase → State → Prop
  /-- MODE0 and MODE1 with objects on -/
  | toScan {i : Instr} (ls : List Layer) :
      LineMove s l i (.select .mode) ((s.startLine.withLayers ls).goto (.line l (.select (.render 0))))
  /-- MODE0 and MODE1 with objects off, and MODE2 -/
  | toDraw {i : Instr} (ls : List Layer) :
      LineMove s l i (.select .mode) ((s.startLine.withLayers ls).startDraw l 0)
  | badMode {i : Instr} : LineMove s l i (.select .mode) (s.startLine.raiseFatal .badMode)
  | toGfx {i : Instr} (e : Fin 128) : LineMove s l i (.select (.render e)) (s.goto (.line l (.select (.gfx e))))
  | toSize {i : Instr} (e : Fin 128) : LineMove s l i (.select (.gfx e)) (s.goto (.line l (.select (.size e))))
  /-- a hidden entry, a window entry, or one that is not on the line -/
  | skip {i : Instr} {p : ScanPos} {e : Fin 128} (he : p.entry = some e) :
      LineMove s l i (.select p) (s.endEntry l e)
  | take {i : Instr} (e : Fin 128) (o : ObjDesc) :
      LineMove s l i (.select (.size e)) ((s.withObjs (s.objs ++ [o])).endEntry l e)
  | badObjMode {i : Instr} (e : Fin 128) : LineMove s l i (.select (.gfx e)) (s.raiseFatal .badObjMode)
  | badObjShape {i : Instr} (e : Fin 128) : LineMove s l i (.select (.size e)) (s.raiseFatal .badObjShape)
  /-- to the next selector of the same column, on the same layer or object -/
  | goOn {i : Instr} (j : Nat) {p p' : DrawPos} (hok : p.ok s → p'.ok s) :
      LineMove s l i (.draw j p) (s.goto (.line l (.draw j p')))
  | textTexel {i : Instr} (j : Nat) (n : Fin 4) (c : Fin 240) (tile : BitVec 10) (bank : BitVec 4) (px py : Fin 8)
      {u : State} (hu : u = s ∨ u = s.countOob) (idx : Byte) (col : Color15) :
      LineMove s l i (.draw j (.textDepth n c tile bank px py)) ((u.plotBg n c idx col).endTextCol l j n c)
  | affTexel {i : Instr} (j : Nat) (n : AffLayer) (c : Fin 240) (addr base : Nat) (fx fy : Fin 8)
      {u : State} (hu : u = s ∨ u = s.countOob) (idx : Byte) (col : Color15) :
      LineMove s l i (.draw j (.affEntry n c addr base fx fy)) ((u.plotBg n.bg c idx col).endAffCol l j n c)
  | affClipped {i : Instr} (j : Nat) (n : AffLayer) (c : Fin 240) (size : Nat) (tx ty : Int) :
      LineMove s l i (.draw j (.affOverflow n c size tx ty)) (s.endAffCol l j n c)
  /-- a box column off screen, or outside an affine object -/
  | objUnset {i : Instr} (j : Nat) (o : ObjDesc) (ix : Nat) :
      LineMove s l i (.draw j (.objRender o ix)) (s.endObjCol l j o ix)
  | objHidden (a : Attr0) (j : Nat) (o : ObjDesc) (ix : Nat) :
      LineMove s l (.objHidden a) (.draw j (.objRender o ix)) (s.endObj l j)
  | objTexel {i : Instr} (j : Nat) (o : ObjDesc) (ix : Nat) (c : Fin 240) (tn px py : Nat) (idx : Byte)
      (col : Color15) :
      LineMove s l i (.draw j (.objDepth o ix c tn px py)) ((s.plotObj c idx col).endObjCol l j o ix)
  | compose {i : Instr} (c : Fin 240) (col : Color15) :
      LineMove s l i (.compose c) ((s.frameWrite l c col).endCompose l c)

/-- A meaning completes at a position of a line: it answers a next state, by one of the moves of a line. -/
def Completes (r : Result) (i : Instr) (s : State) (l : Fin 160) (ph : Phase) : Prop :=
  ∃ t, r = .next t ∧ LineMove s l i ph t

section Completes

variable {i : Instr} {s : State} {l : Fin 160} {j : Nat}

theorem startM01_completes (hs : s.seq = .line l (.select .mode)) (lay : List Layer) (d : DispCnt) :
    Completes (startM01 lay d s) i s l (.select .mode) := by
  refine ⟨_, startM01_at hs lay d, ?_⟩
  cases d.objEn
  · exact .toDraw _
  · exact .toScan _

theorem exec_mode_completes (hs : s.seq = .line l (.select .mode)) (hi : i.selector = .bgMode) :
    Completes (exec i s) i s l (.select .mode) := by
  cases i
  case mode0 d | mode1 d => exact startM01_completes hs _ d
  case mode2 d => exact ⟨_, execMode2_at hs d, .toDraw _⟩
  case mode3 | mode4 | mode5 | mode6 | mode7 => exact ⟨_, badMode_at hs, .badMode⟩
  all_goals cases hi

theorem exec_scanRender_completes {e : Fin 128} (hs : s.seq = .line l (.select (.render e)))
    (hi : i.selector = .objRender) : Completes (exec i s) i s l (.select (.render e)) := by
  cases i
  case objRegular a => exact ⟨_, execObjRegular_scan hs a, .toGfx e⟩
  case objAffine a => exact ⟨_, execObjAffine_scan hs a, .toGfx e⟩
  case objAffineDouble a => exact ⟨_, execObjAffineDouble_scan hs a, .toGfx e⟩
  case objHidden a => exact ⟨_, execObjHidden_scan hs a, .skip rfl⟩
  all_goals cases hi

theorem exec_scanGfx_completes {e : Fin 128} (hs : s.seq = .line l (.select (.gfx e)))
    (hi : i.selector = .objGfx) : Completes (exec i s) i s l (.select (.gfx e)) := by
  cases i
  case objGfxNormal | objGfxSemitrans => exact ⟨_, drawnGfx_at hs, .toSize e⟩
  case objGfxWindow a => exact ⟨_, execObjGfxWindow_at hs a, .skip rfl⟩
  case objGfxProhibited a => exact ⟨_, execObjGfxProhibited_at hs a, .badObjMode e⟩
  all_goals cases hi

theorem sizedObj_completes {e : Fin 128} (hs : s.seq = .line l (.select (.size e))) (w h : Nat) (key : ObjKey) :
    Completes (sizedObj w h key s) i s l (.select (.size e)) := by
  refine ⟨_, sizedObj_at hs w h key, ?_⟩
  split
  · exact .take e _
  · exact .skip rfl

theorem exec_scanSize_completes {e : Fin 128} (hs : s.seq = .line l (.select (.size e)))
    (hi : i.selector = .objSize) : Completes (exec i s) i s l (.select (.size e)) := by
  cases i
  case objShapeProhibited k => exact ⟨_, execObjShapeProhibited_at hs k, .badObjShape e⟩
  case objSize8x8 k | objSize16x16 k | objSize32x32 k | objSize64x64 k | objSize16x8 k | objSize32x8 k
      | objSize32x16 k | objSize64x32 k | objSize8x16 k | objSize8x32 k | objSize16x32 k | objSize32x64 k =>
    exact sizedObj_completes hs _ _ k
  all_goals cases hi

theorem textLocate_completes {n : Fin 4} {c : Fin 240} (hs : s.seq = .line l (.draw j (.textSize n c)))
    (size : BitVec 2) (b : BgCnt) : Completes (textLocate size b s) i s l (.draw j (.textSize n c)) := by
  have hW : 0 < textWt size := by unfold textWt; split <;> omega
  have hH : 0 < textHt size := by unfold textHt; split <;> omega
  refine ⟨_, textLocate_at hs size b, .goOn j fun hok => ⟨hok, seAddr_in_vram _ ?_ ?_⟩⟩
  · exact Nat.div_lt_of_lt_mul (Nat.mod_lt _ (by omega))
  · exact Nat.div_lt_of_lt_mul (Nat.mod_lt _ (by omega))

theorem exec_textSize_completes {n : Fin 4} {c : Fin 240} (hs : s.seq = .line l (.draw j (.textSize n c)))
    (hi : i.selector = .textSize) : Completes (exec i s) i s l (.draw j (.textSize n c)) := by
  cases i
  case text32x32 b | text64x32 b | text32x64 b | text64x64 b => exact textLocate_completes hs _ b
  all_goals cases hi

theorem exec_textEntry_completes {n : Fin 4} {c : Fin 240} {addr : Nat} {fx fy : Fin 8}
    (hs : s.seq = .line l (.draw j (.textEntry n c addr fx fy))) (hi : i.selector = .seText) :
    Completes (exec i s) i s l (.draw j (.textEntry n c addr fx fy)) := by
  cases i
  case seText e => exact ⟨_, execSeText_at hs e, .goOn j And.left⟩
  all_goals cases hi

theorem exec_textDepth_completes {n : Fin 4} {c : Fin 240} {tile : BitVec 10} {bank : BitVec 4} {px py : Fin 8}
    (hs : s.seq = .line l (.draw j (.textDepth n c tile bank px py))) (hi : i.selector = .bgDepth) :
    Completes (exec i s) i s l (.draw j (.textDepth n c tile bank px py)) := by
  cases i
  case bg4bpp b => exact ⟨_, execBg4bpp_at hs b, .textTexel j n c tile bank px py (vramByte_state s _) _ _⟩
  case bg8bpp b => exact ⟨_, execBg8bpp_at hs b, .textTexel j n c tile bank px py (vramByte_state s _) _ _⟩
  all_goals cases hi

theorem affLocate_completes {n : AffLayer} {c : Fin 240} (hs : s.seq = .line l (.draw j (.affSize n c))) {size : Nat}
    (h : size ∈ affSizes) : Completes (affLocate size s) i s l (.draw j (.affSize n c)) :=
  ⟨_, affLocate_at hs size, .goOn j fun hok => ⟨hok, h⟩⟩

theorem exec_affSize_completes {n : AffLayer} {c : Fin 240} (hs : s.seq = .line l (.draw j (.affSize n c)))
    (hi : i.selector = .affSize) : Completes (exec i s) i s l (.draw j (.affSize n c)) := by
  cases i
  case aff128 | aff256 | aff512 | aff1024 => exact affLocate_completes hs (by decide)
  all_goals cases hi

theorem exec_affOverflow_completes {n : AffLayer} {c : Fin 240} {size : Nat} {tx ty : Int}
    (hs : s.seq = .line l (.draw j (.affOverflow n c size tx ty))) (hi : i.selector = .affOverflow) :
    Completes (exec i s) i s l (.draw j (.affOverflow n c size tx ty)) := by
  cases i
  case affClip b =>
    refine ⟨_, execAffClip_at hs b, ?_⟩
    split
    next hin =>
      obtain ⟨hx, hy⟩ := Bool.and_eq_true_iff.1 hin
      exact .goOn j fun ⟨hl, hsz⟩ =>
        ⟨hl, affEntryAddr_in_vram _ hsz (toNat_lt_of_insideBy hx) (toNat_lt_of_insideBy hy)⟩
    next => exact .affClipped ..
  case affWrap b => exact ⟨_, execAffWrap_at hs b, .goOn j fun ⟨hl, hsz⟩ =>
      ⟨hl, affEntryAddr_in_vram _ hsz (wrapTo_toNat_lt (pos_of_mem_affSizes hsz) _)
        (wrapTo_toNat_lt (pos_of_mem_affSizes hsz) _)⟩⟩
  all_goals cases hi

theorem exec_affEntry_completes {n : AffLayer} {c : Fin 240} {addr base : Nat} {fx fy : Fin 8}
    (hs : s.seq = .line l (.draw j (.affEntry n c addr base fx fy))) (hi : i.selector = .seAff) :
    Completes (exec i s) i s l (.draw j (.affEntry n c addr base fx fy)) := by
  cases i
  case seAff tile => exact ⟨_, execSeAff_at hs tile, .affTexel j n c addr base fx fy (vramByte_state s _) _ _⟩
  all_goals cases hi

variable {o : ObjDesc} {ix : Nat}

theorem affineObjCol_lineMove (i : Instr) (s : State) (l : Fin 160) (j : Nat) (o : ObjDesc) (ix bw bh : Nat) :
    LineMove s l i (.draw j (.objRender o ix)) (affineObjCol bw bh s l j o ix) := by
  obtain h | ⟨c, px, py, -, h⟩ := affineObjCol_cases bw bh s l j o ix
  · rw [h]
    exact .objUnset ..
  · rw [h]
    exact .goOn j id

theorem regularObjCol_lineMove (i : Instr) (s : State) (l : Fin 160) (j : Nat) (o : ObjDesc) (ix : Nat) :
    LineMove s l i (.draw j (.objRender o ix)) (regularObjCol s l j o ix) := by
  obtain h | ⟨c, -, h⟩ := regularObjCol_cases s l j o ix
  · rw [h]
    exact .objUnset ..
  · rw [h]
    exact .goOn j id

theorem exec_drawRender_completes (hs : s.seq = .line l (.draw j (.objRender o ix))) (hi : i.selector = .objRender) :
    Completes (exec i s) i s l (.draw j (.objRender o ix)) := by
  cases i
  case objRegular a => exact ⟨_, execObjRegular_draw hs a, regularObjCol_lineMove _ s l j o ix⟩
  case objAffine a => exact ⟨_, execObjAffine_draw hs a, affineObjCol_lineMove _ s l j o ix _ _⟩
  case objAffineDouble a => exact ⟨_, execObjAffineDouble_draw hs a, affineObjCol_lineMove _ s l j o ix _ _⟩
  case objHidden a => exact ⟨_, execObjHidden_draw hs a, .objHidden a j o ix⟩
  all_goals cases hi

theorem exec_objMap_completes {c : Fin 240} {px py : Nat} (hs : s.seq = .line l (.draw j (.objMap o ix c px py)))
    (hi : i.selector = .objMapping) : Completes (exec i s) i s l (.draw j (.objMap o ix c px py)) := by
  cases i
  case objMap2D d => exact ⟨_, execObjMap2D_at hs d, .goOn j id⟩
  case objMap1D d => exact ⟨_, execObjMap1D_at hs d, .goOn j id⟩
  all_goals cases hi

theorem exec_objDepth_completes {c : Fin 240} {tn px py : Nat}
    (hs : s.seq = .line l (.draw j (.objDepth o ix c tn px py))) (hi : i.selector = .objDepth) :
    Completes (exec i s) i s l (.draw j (.objDepth o ix c tn px py)) := by
  cases i
  case obj4bpp a => exact ⟨_, execObj4bpp_at hs a, .objTexel j o ix c tn px py _ _⟩
  case obj8bpp a => exact ⟨_, execObj8bpp_at hs a, .objTexel j o ix c tn px py _ _⟩
  all_goals cases hi

/-- A blend mode composes a column by a color that does not depend on the sink (R248). -/
theorem exec_blend (s : State) (hi : i.selector = .blendMode) :
    ∃ f, exec i s = composeCol f s ∧ ∀ k, exec i (s.withSink k) = composeCol f (s.withSink k) := by
  cases i
  case blendOff => exact ⟨fun p => getColorOff p s.backdrop, rfl, fun _ => rfl⟩
  case blendAlpha b =>
    exact ⟨fun p => getColorAlpha p s.backdrop b.bottomBackdrop s.eva s.evb, rfl, fun _ => rfl⟩
  case blendWhite b => exact ⟨fun p => getColorFade 0x7FFF p s.backdrop b.topBackdrop s.evy, rfl, fun _ => rfl⟩
  case blendBlack b => exact ⟨fun p => getColorFade 0x0000 p s.backdrop b.topBackdrop s.evy, rfl, fun _ => rfl⟩
  all_goals cases hi

theorem exec_compose_completes {c : Fin 240} (hs : s.seq = .line l (.compose c)) (hi : i.selector = .blendMode) :
    Completes (exec i s) i s l (.compose c) := by
  obtain ⟨f, hf, -⟩ := exec_blend s hi
  exact ⟨_, hf.trans (composeCol_at hs f), .compose c _⟩

/-- Where its selector is decoded, every instruction answers a next state, by one of the moves of a line (R266). -/
theorem exec_completes {ph : Phase} (hs : s.seq = .line l ph) (hi : (fetchPlace ph).sel = i.selector) :
    Completes (exec i s) i s l ph :=
  match ph with
  | .select .mode => exec_mode_completes hs hi.symm
  | .select (.render _) => exec_scanRender_completes hs hi.symm
  | .select (.gfx _) => exec_scanGfx_completes hs hi.symm
  | .select (.size _) => exec_scanSize_completes hs hi.symm
  | .draw _ (.textSize ..) => exec_textSize_completes hs hi.symm
  | .draw _ (.textEntry ..) => exec_textEntry_completes hs hi.symm
  | .draw _ (.textDepth ..) => exec_textDepth_completes hs hi.symm
  | .draw _ (.affSize ..) => exec_affSize_completes hs hi.symm
  | .draw _ (.affOverflow ..) => exec_affOverflow_completes hs hi.symm
  | .draw _ (.affEntry ..) => exec_affEntry_completes hs hi.symm
  | .draw _ (.objRender ..) => exec_drawRender_completes hs hi.symm
  | .draw _ (.objMap ..) => exec_objMap_completes hs hi.symm
  | .draw _ (.objDepth ..) => exec_objDepth_completes hs hi.symm
  | .compose _ => exec_compose_completes hs hi.symm

/-- In a line, an instruction that answers a next state is in its place. -/
theorem selector_of_exec_next {ph : Phase} {t : State} (hs : s.seq = .line l ph) (h : exec i s = .next t) :
    (fetchPlace ph).sel = i.selector := by
  by_contra hne
  by_cases hi : i = .render
  · subst hi
    obtain ⟨hq | hq, -⟩ := execRender_next h <;> rw [hs] at hq <;> cases hq
  · rw [exec_outOfPlace hi (fun l' ph' hs' => by rw [hs] at hs'; cases hs'; exact hne)] at h
    cases h

/-- In a line, an instruction answers a next state only by one of the moves of a line. -/
theorem lineMove_of_exec_next {ph : Phase} {t : State} (hs : s.seq = .line l ph) (h : exec i s = .next t) :
    LineMove s l i ph t := by
  obtain ⟨t', ht', hm⟩ := exec_completes hs (selector_of_exec_next hs h)
  rw [h] at ht'
  cases ht'
  exact hm

end Completes

end Sys2Proof.Machine
end

section
/-! SUPPORT. What a step does: in a line, the due write of the hook or the instruction decoded where the sequencer
stands; outside one, the host's next move. With them the statements about the step alone. -/

namespace Sys2Proof.Machine

open Sys2Proof.Config

/-! ### Fetching -/

/-- Away from the screen entries, whose address a draw position carries, the word of a position is in its region (R22,
R34). -/
theorem fetchPlace_in_region {ph : Phase} (h : (fetchPlace ph).region ≠ .vram) :
    (fetchPlace ph).off + (fetchPlace ph).sel.width ≤ (fetchPlace ph).region.size := by
  rcases ph with (_ | e | e | e) | ⟨j, p⟩ | c
  case draw =>
    cases p
    case textEntry | affEntry => exact absurd rfl h
    all_goals simp only [fetchPlace, Selector.width, Region.size, bgCntOff]; omega
  all_goals simp only [fetchPlace, Selector.width, Region.size]; omega

/-- A place in its region is fetched whole. -/
theorem fetch_in_region (s : State) {p : Place} (h : p.off + p.sel.width ≤ p.region.size) :
    s.fetch p = some (s.mem.bytes p.region p.off p.sel.width) := if_pos h

/-! ### A step of a line -/

/-- With no hook write due, a step of a line is exec of the decoded instruction. -/
theorem step_of_decode {s : State} {l : Fin 160} {ph : Phase} {bytes rest : List Byte} {i : Instr}
    (hs : s.seq = .line l ph) (hd : s.hookDue l ph = none) (hf : s.fetch (fetchPlace ph) = some bytes)
    (hi : decode (fetchPlace ph).sel bytes = .ok (i, rest)) : step s = exec i s := by
  simp only [step, State.nextMove, hs, hd, hf, runMove, hi]

/-- A screen entry beyond VRAM stops the step. -/
theorem step_of_no_fetch {s : State} {l : Fin 160} {ph : Phase} (hs : s.seq = .line l ph)
    (hd : s.hookDue l ph = none) (hf : s.fetch (fetchPlace ph) = none) :
    step s = .fault (.noSuchAddress (fetchPlace ph).region (fetchPlace ph).off) := by
  simp only [step, State.nextMove, hs, hd, hf, runMove]

/-- A write of the line hook: the start of line `l` after the boundary the head of the host's program names, and the
state it makes (R70). -/
structure State.HookWrites (s : State) (l : Fin 160) (ph : Phase) (t : State) (l' : Nat) (w : HostWrite)
    (rest : List HostMove) : Prop where
  start : ph = .select .mode
  hookOn : s.cfg.lineHook = true
  boundary : l' + 1 = l.val
  host : s.host = .hook l' w :: rest
  legal : w.legal
  next : t = (s.withHost rest).withMem (w.store s.mem)

/-- Everything a step of a line can do: a write of the line hook, or an instruction. -/
theorem step_line {s t : State} {l : Fin 160} {ph : Phase} (hs : s.seq = .line l ph) (h : step s = .next t) :
    (∃ l' w rest, s.HookWrites l ph t l' w rest) ∨ ∃ i, exec i s = .next t ∧ LineMove s l i ph t := by
  cases hd : s.hookDue l ph with
  | some due =>
    obtain ⟨w, s'⟩ := due
    obtain ⟨hph, hon, l', rest, hhost, hl', rfl⟩ := hookDue_some hd
    rw [step_of_hookDue hs hd, hostWrite_legal] at h
    exact .inl ⟨l', w, rest, hph, hon, hl', hhost, h.1, h.2⟩
  | none =>
    cases hf : s.fetch (fetchPlace ph) with
    | none =>
      rw [step_of_no_fetch hs hd hf] at h
      cases h
    | some bytes =>
      have hm : s.nextMove = .instr (fetchPlace ph).sel bytes s := by simp only [State.nextMove, hs, hd, hf]
      unfold step at h
      rw [hm] at h
      obtain ⟨_, _, _, i, _, he, -, hi⟩ | ⟨_, _, he, -⟩ | ⟨_, _, he, -⟩ | ⟨he, -⟩ := runMove_next h <;> cases he
      exact .inr ⟨i, hi, lineMove_of_exec_next hs hi⟩

/-! ### A step outside a request -/

/-- Outside a request the host moves; with no move to come the block waits, or is stuck in FAULT (R268). -/
theorem nextMove_outside {s : State} (hs : ¬s.inLine) :
    s.nextMove = s.hostMove (if s.seq = .fault then .stuck else .wait) := by
  unfold State.nextMove
  cases hq : s.seq with
  | line l ph => exact absurd ⟨l, ph, hq⟩ hs
  | idle => rfl
  | done => rfl
  | fault => rfl

/-- Outside a request a host write is made by a step. -/
theorem step_of_write {s : State} {w : HostWrite} {more : List HostMove} (hs : ¬s.inLine)
    (hh : s.host = .write w :: more) : step s = (s.withHost more).hostWrite w := by
  simp only [step, nextMove_outside hs, State.hostMove, hh, runMove]

/-- Outside a request a sink is taken over by a step (R284). -/
theorem step_of_sink {s : State} {k : Sink} {more : List HostMove} (hs : ¬s.inLine)
    (hh : s.host = .sink k :: more) : step s = .next ((s.withHost more).withSink k) := by
  simp only [step, nextMove_outside hs, State.hostMove, hh, runMove]

/-- Outside a request the host's RENDER is run by a step (R224). -/
theorem step_of_render {s : State} {more : List HostMove} (hs : ¬s.inLine) (hh : s.host = .render :: more) :
    step s = exec .render (s.withHost more) := by
  simp only [step, nextMove_outside hs, State.hostMove, hh, runMove, decode]

/-- Outside a request a write of the hook stops the step (R70). -/
theorem step_of_hook {s : State} {n : Nat} {w : HostWrite} {more : List HostMove} (hs : ¬s.inLine)
    (hh : s.host = .hook n w :: more) : step s = .refused .hookOutOfPlace := by
  simp only [step, nextMove_outside hs, State.hostMove, hh, runMove]

/-- Outside a request and with no host move to come, the block waits, or is stuck in FAULT. -/
theorem step_of_no_move {s : State} (hs : ¬s.inLine) (hh : s.host = []) :
    step s = if s.seq = .fault then .fault .stuckInFault else .next s := by
  simp only [step, nextMove_outside hs, State.hostMove, hh]
  split <;> rfl

/-- Everything a step outside a request can do: a legal host write, the taking over of a sink, the start of a frame, or
waiting. -/
theorem step_outside {s t : State} (hs : ¬s.inLine) (h : step s = .next t) :
    (∃ w more, s.host = .write w :: more ∧ w.legal ∧ t = (s.withHost more).withMem (w.store s.mem)) ∨
    (∃ k more, s.host = .sink k :: more ∧ t = (s.withHost more).withSink k) ∨
    (∃ more, s.host = .render :: more ∧ (s.seq = .idle ∨ s.seq = .done) ∧ s.fault = none ∧
      t = (s.withHost more).startFrame) ∨
    t = s := by
  cases hh : s.host with
  | nil =>
    rw [step_of_no_move hs hh] at h
    split at h
    · cases h
    · exact .inr (.inr (.inr (by injection h with h; exact h.symm)))
  | cons m more =>
    cases m with
    | write w =>
      rw [step_of_write hs hh, hostWrite_legal] at h
      exact .inl ⟨w, more, rfl, h.1, h.2⟩
    | sink k =>
      rw [step_of_sink hs hh] at h
      exact .inr (.inl ⟨k, more, rfl, by injection h with h; exact h.symm⟩)
    | render =>
      rw [step_of_render hs hh] at h
      obtain ⟨hq, hf, ht⟩ := execRender_next h
      exact .inr (.inr (.inl ⟨more, rfl, hq, hf, ht⟩))
    | hook n w =>
      rw [step_of_hook hs hh] at h
      cases h

/-- A block in FAULT is outside a request. -/
theorem not_inLine_of_fault {s : State} (h : s.seq = .fault) : ¬s.inLine := by
  rintro ⟨l, ph, hq⟩
  rw [h] at hq
  cases hq

/-! ### The statements about the step alone -/

/-- Settles O4: the two equations of the step, in a line and at a RENDER outside one. -/
theorem stepRunsTheDecodedInstruction : Obligations.StepRunsTheDecodedInstruction :=
  ⟨fun _ _ _ _ _ _ hs hd hf hi => step_of_decode hs hd hf hi, fun _ _ hs hh => step_of_render hs hh⟩

/-- Settles O5: each position's place is in its region, the screen entries' by the premise, and its bytes are the
word's. -/
theorem stepReadsEachSelectorFromItsWord : Obligations.StepReadsEachSelectorFromItsWord := by
  intro s l ph hs hd
  rcases ph with (_ | e | e | e) | ⟨j, p⟩ | c
  case draw =>
    cases p
    case textEntry | affEntry => exact fun ha => step_of_decode hs hd (fetch_in_region s ha) rfl
    all_goals exact step_of_decode hs hd (fetch_in_region s (fetchPlace_in_region nofun)) rfl
  all_goals exact step_of_decode hs hd (fetch_in_region s (fetchPlace_in_region nofun)) rfl

end Sys2Proof.Machine
end

section
/-! SUPPORT. The invariant of a good state: that every move of a line keeps it, and with the host's moves every step. -/

namespace Sys2Proof.Machine

open Sys2Proof.Config

/-! ### Pixels -/

/-- SETCOLOR makes a legal Pixel of a legal one (R215, R216). -/
theorem setColor_legal {p : Pixel} (h : p.legal) (col : Color15) (top bot : Bool) : (setColor p col top bot).legal := by
  obtain ⟨h0, h1, h2⟩ := h
  obtain ⟨hn, e⟩ | ⟨hn, ht, -, e⟩ | ⟨hn, ht, -, e⟩ | ⟨-, -, e⟩ := setColor_cases p col top bot <;> rw [e]
  · exact ⟨nofun, fun _ => (h0 hn).2, nofun⟩
  · exact ⟨nofun, nofun, fun _ => ht⟩
  · exact ⟨nofun, nofun, fun _ => ht⟩
  · exact ⟨h0, h1, h2⟩

/-- The empty row is legal. -/
theorem pixelsLegal_of_row_empty {s : State} (h : s.row = Row.empty) : s.pixelsLegal := by
  intro c
  have hp : s.pixel c = Pixel.empty := by simp [State.pixel, h, Row.empty]
  rw [hp]
  exact ⟨fun _ => ⟨rfl, rfl⟩, nofun, nofun⟩

/-- An index offered to a column keeps the row legal. -/
theorem plotIndex_pixelsLegal {s : State} (h : s.pixelsLegal) (c : Fin 240) (idx : Byte) (col : Color15)
    (top bot : Bool) : (s.plotIndex c idx col top bot).pixelsLegal := by
  intro d
  by_cases hd : d = c
  · subst hd
    by_cases hz : idx = 0
    · rw [hz, plotIndex_zero]
      exact h d
    · rw [plotIndex_opaque s d hz, State.plot_pixel_same]
      exact setColor_legal (h d) col top bot
  · rw [plotIndex_pixel_other s hd]
    exact h d

/-! ### The invariant in a line -/

/-- The invariant of a state in a line, but for the position: no fault is recorded. -/
structure State.LineInv (s : State) : Prop where
  memWf : s.mem.wf = true
  pixels : s.pixelsLegal
  noFault : s.fault = none
  cursor : s.k ≤ s.objs.length

/-- A phase agrees with a state whatever position its sequencer has. -/
theorem Phase.ok_goto {s : State} {ph : Phase} (q : Seq) (h : ph.ok s) : ph.ok (s.goto q) := by
  rcases ph with (_ | _ | _ | _) | ⟨j, p⟩ | c
  case draw => cases p <;> exact h
  all_goals exact h

namespace State

variable {s : State} {l : Fin 160} {j : Nat}

theorem Inv.lineInv {ph : Phase} (h : s.Inv) (hs : s.seq = .line l ph) : s.LineInv := by
  refine ⟨h.memWf, h.pixels, ?_, h.cursor⟩
  cases hf : s.fault with
  | none => rfl
  | some r =>
    have hq := h.faultSeq.1 (by rw [hf]; rfl)
    rw [hs] at hq
    cases hq

/-- In a line, the position agrees with the state. -/
theorem Inv.phase_ok {ph : Phase} (h : s.Inv) (hs : s.seq = .line l ph) : ph.ok s := by
  have hp := h.position
  unfold State.seqOk at hp
  rw [hs] at hp
  exact hp

namespace LineInv

/-- At a position that agrees with it, a state of a line is good. -/
theorem goto {ph : Phase} (h : s.LineInv) (hp : ph.ok s) : (s.goto (.line l ph)).Inv where
  memWf := h.memWf
  pixels := h.pixels
  faultSeq := by simp [h.noFault]
  cursor := h.cursor
  position := Phase.ok_goto _ hp

/-- The end of a frame is good. -/
theorem goto_done (h : s.LineInv) : (s.goto .done).Inv :=
  ⟨h.memWf, h.pixels, by simp [h.noFault], h.cursor, trivial⟩

/-- FAULT with the reason recorded is good. -/
theorem raiseFatal (h : s.LineInv) (r : FatalReason) : (s.raiseFatal r).Inv :=
  ⟨h.memWf, h.pixels, by simp, h.cursor, trivial⟩

theorem withLayers (h : s.LineInv) (ls : List Layer) : (s.withLayers ls).LineInv :=
  ⟨h.memWf, h.pixels, h.noFault, h.cursor⟩

theorem startLine (h : s.LineInv) : s.startLine.LineInv :=
  ⟨h.memWf, pixelsLegal_of_row_empty rfl, h.noFault, Nat.le_refl 0⟩

theorem countOob (h : s.LineInv) : s.countOob.LineInv := ⟨h.memWf, h.pixels, h.noFault, h.cursor⟩

theorem frameWrite (h : s.LineInv) (c : Fin 240) (col : Color15) : (s.frameWrite l c col).LineInv :=
  ⟨h.memWf, h.pixels, h.noFault, h.cursor⟩

theorem plotIndex (h : s.LineInv) (c : Fin 240) (idx : Byte) (col : Color15) (top bot : Bool) :
    (s.plotIndex c idx col top bot).LineInv :=
  ⟨by simpa using h.memWf, plotIndex_pixelsLegal h.pixels c idx col top bot, by simpa using h.noFault,
    by simpa using h.cursor⟩

/-- Starting a draw step: what is picked is the layer or object the position stands on, and at COMPOSE nothing is left
(R221, R222). -/
theorem startDraw (h : s.LineInv) (l : Fin 160) (j : Nat) : (s.startDraw l j).Inv := by
  unfold State.startDraw
  obtain ⟨-, ⟨a, rest, hp, -⟩ | ⟨o, rest, hp, ho⟩ | ⟨hp, ho⟩⟩ := pickDraw_cases s s.layers <;> rw [hp]
  · cases a <;> exact (h.withLayers _).goto rfl
  · exact (h.withLayers _).goto ho
  · exact (h.withLayers _).goto ⟨rfl, Nat.le_antisymm h.cursor (List.getElem?_eq_none_iff.1 ho)⟩

theorem endLayer (h : s.LineInv) (l : Fin 160) (j : Nat) : (s.endLayer l j).Inv := (h.withLayers _).startDraw l (j + 1)

theorem endObj {o : ObjDesc} (h : s.LineInv) (ho : s.objs[s.k]? = some o) (l : Fin 160) (j : Nat) :
    (s.endObj l j).Inv := by
  obtain ⟨hk, -⟩ := List.getElem?_eq_some_iff.1 ho
  exact LineInv.startDraw (s := s.withCursor (s.k + 1)) ⟨h.memWf, h.pixels, h.noFault, hk⟩ l (j + 1)

theorem endTextCol {n : Fin 4} (h : s.LineInv) (hl : s.layers.head? = some (.text n)) (l : Fin 160) (j : Nat)
    (c : Fin 240) : (s.endTextCol l j n c).Inv := by
  obtain ⟨c', -, e⟩ | ⟨-, e⟩ := endTextCol_cases s l j n c <;> rw [e]
  · exact h.goto hl
  · exact h.endLayer l j

theorem endAffCol {n : AffLayer} (h : s.LineInv) (hl : s.layers.head? = some (.affine n)) (l : Fin 160) (j : Nat)
    (c : Fin 240) : (s.endAffCol l j n c).Inv := by
  obtain ⟨c', -, e⟩ | ⟨-, e⟩ := endAffCol_cases s l j n c <;> rw [e]
  · exact h.goto hl
  · exact h.endLayer l j

theorem endObjCol {o : ObjDesc} (h : s.LineInv) (ho : s.objs[s.k]? = some o) (l : Fin 160) (j ix : Nat) :
    (s.endObjCol l j o ix).Inv := by
  obtain ⟨-, e⟩ | ⟨-, e⟩ := endObjCol_cases s l j o ix <;> rw [e]
  · exact h.goto ho
  · exact h.endObj ho l j

/-- The end of an OAM entry in the scan, where the cursor is 0 (R190). -/
theorem endEntry (h : s.LineInv) (hk : s.k = 0) (l : Fin 160) (e : Fin 128) : (s.endEntry l e).Inv := by
  obtain ⟨e', -, eq⟩ | ⟨-, eq⟩ := endEntry_cases s l e <;> rw [eq]
  · exact h.goto hk
  · exact LineInv.startDraw (s := (s.withObjs (sortBy objBefore s.objs)).withCursor 0)
      ⟨h.memWf, h.pixels, h.noFault, Nat.zero_le _⟩ l 0

/-- The end of a composed column, where nothing is left to draw (R222, R224). -/
theorem endCompose (h : s.LineInv) (hl : s.layers = []) (hk : s.k = s.objs.length) (l : Fin 160) (c : Fin 240) :
    (s.endCompose l c).Inv := by
  obtain ⟨c', -, e⟩ | ⟨-, l', -, e⟩ | ⟨-, -, e⟩ := endCompose_cases s l c <;> rw [e]
  · exact h.goto ⟨hl, hk⟩
  · exact h.goto trivial
  · exact h.goto_done

end LineInv

end State

/-- A VRAM read keeps the invariant of a line. -/
theorem State.LineInv.of_read {s u : State} (h : s.LineInv) (hu : u = s ∨ u = s.countOob) : u.LineInv := by
  rcases hu with rfl | rfl
  · exact h
  · exact h.countOob

/-- In the object scan the cursor is 0 (R38, R190). -/
theorem cursor_of_scan_ok {s : State} {p : ScanPos} {e : Fin 128} (he : p.entry = some e)
    (h : (Phase.select p).ok s) : s.k = 0 := by
  cases p
  case mode => cases he
  all_goals exact h

/-- Every move of a line keeps the invariant. -/
theorem LineMove.inv {s t : State} {l : Fin 160} {i : Instr} {ph : Phase} (hm : LineMove s l i ph t) (hI : s.Inv)
    (hs : s.seq = .line l ph) : t.Inv := by
  have h := hI.lineInv hs
  have hp := hI.phase_ok hs
  cases hm with
  | toScan ls => exact (h.startLine.withLayers ls).goto rfl
  | toDraw ls => exact (h.startLine.withLayers ls).startDraw l 0
  | badMode => exact h.startLine.raiseFatal _
  | toGfx e => exact h.goto hp
  | toSize e => exact h.goto hp
  | skip he => exact h.endEntry (cursor_of_scan_ok he hp) l _
  | take e o =>
    have hk : s.k = 0 := hp
    exact State.LineInv.endEntry (s := s.withObjs (s.objs ++ [o]))
      ⟨h.memWf, h.pixels, h.noFault, by simp [hk]⟩ hk l e
  | badObjMode e => exact h.raiseFatal _
  | badObjShape e => exact h.raiseFatal _
  | goOn j hok => exact h.goto (hok hp)
  | textTexel j n c tile bank px py hu idx col =>
    have hl : s.layers.head? = some (.text n) := hp
    refine ((h.of_read hu).plotIndex c idx col _ _).endTextCol ?_ l j c
    rcases hu with rfl | rfl <;> simpa using hl
  | affTexel j n c addr base fx fy hu idx col =>
    refine ((h.of_read hu).plotIndex c idx col _ _).endAffCol ?_ l j c
    rcases hu with rfl | rfl <;> simpa using hp.1
  | affClipped j n c size tx ty => exact h.endAffCol hp.1 l j c
  | objUnset j o ix => exact h.endObjCol hp l j ix
  | objHidden a j o ix => exact h.endObj hp l j
  | objTexel j o ix c tn px py idx col =>
    have ho : s.objs[s.k]? = some o := hp
    exact (h.plotIndex c idx col _ _).endObjCol (by simpa using ho) l j ix
  | compose c col => exact (h.frameWrite c col).endCompose hp.1 hp.2 l c

/-! ### The host's moves -/

/-- A legal host write keeps the canonical form (R61). -/
theorem store_wf {m : Memory} {w : HostWrite} (hw : w.legal) (hm : m.wf = true) : (w.store m).wf = true :=
  hostWrite_wf (s := State.reset.withMem m) ((hostWrite_legal _ w _).2 ⟨hw, rfl⟩) hm

/-- Outside a request no position is held against the state. -/
theorem seqOk_of_not_inLine {s : State} (h : ¬s.inLine) : s.seqOk := by
  unfold State.seqOk
  cases hq : s.seq with
  | line l ph => exact absurd ⟨l, ph, hq⟩ h
  | idle | done | fault => trivial

/-- Other regions in canonical form and another host program keep the invariant outside a request. -/
theorem State.Inv.withMem_outside {s : State} (h : s.Inv) (hs : ¬s.inLine) (more : List HostMove) {m : Memory}
    (hm : m.wf = true) : ((s.withHost more).withMem m).Inv :=
  ⟨hm, h.pixels, h.faultSeq, h.cursor, seqOk_of_not_inLine (s := (s.withHost more).withMem m) hs⟩

/-- Settles O49: a step of a line is a write of the hook at the start of a line, or a move of the line; a step outside a
request is a move of the host. Each keeps the invariant. -/
theorem everyStepKeepsTheInvariant : Obligations.EveryStepKeepsTheInvariant := by
  intro s t hI h
  by_cases hs : s.inLine
  · obtain ⟨l, ph, hs⟩ := hs
    obtain ⟨l', w, rest, hw⟩ | ⟨i, -, hm⟩ := step_line hs h
    · obtain ⟨hph, -, -, -, hlegal, rfl⟩ := hw
      refine ⟨store_wf hlegal hI.memWf, hI.pixels, hI.faultSeq, hI.cursor, ?_⟩
      simp only [State.seqOk, State.withMem_seq, State.withHost_seq, hs, hph, Phase.ok]
    · exact hm.inv hI hs
  · obtain ⟨w, more, -, hlegal, rfl⟩ | ⟨k, more, -, rfl⟩ | ⟨more, -, -, hf, rfl⟩ | rfl := step_outside hs h
    · exact hI.withMem_outside hs more (store_wf hlegal hI.memWf)
    · exact ⟨hI.memWf, hI.pixels, hI.faultSeq, hI.cursor, seqOk_of_not_inLine (s := (s.withHost more).withSink k) hs⟩
    · refine ⟨hI.memWf, hI.pixels, ?_, Nat.le_refl 0, trivial⟩
      change s.fault.isSome = true ↔ Seq.line 0 (.select .mode) = .fault
      simp [hf]
    · exact hI

/-- A launch meets the invariant. -/
theorem launch_inv (cfg : Params) {mem : Memory} (hm : mem.wf = true) (sink : Sink) (host : List HostMove) :
    (State.launch cfg mem sink host).Inv where
  memWf := hm
  pixels := pixelsLegal_of_row_empty rfl
  faultSeq := by simp [State.launch, State.reset]
  cursor := Nat.le_refl 0
  position := trivial

/-- Settles O50: the fields of a launch are those given or reset's. -/
theorem launchStatesAreGood : Obligations.LaunchStatesAreGood :=
  ⟨fun cfg _ sink host hm => ⟨launch_inv cfg hm sink host, rfl, rfl, rfl, rfl, rfl, rfl, rfl, rfl⟩,
    launch_inv Params.default (mem := ⟨[], [], [], []⟩) rfl Sink.blank [], rfl⟩

end Sys2Proof.Machine
end

section
/-! SUPPORT. What the moves of a line leave unchanged and where they lead, and the statements about the step's frame,
the host's moves, and FAULT. -/

namespace Sys2Proof.Machine

open Sys2Proof.Config

/-! ### The loops -/

/-- The column after `c`. -/
theorem nextCol_of_succ {c c' : Fin 240} (h : c'.val = c.val + 1) : nextCol c = some c' := by
  rw [nextCol_eq, dif_pos (by omega)]
  exact congrArg some (Fin.ext h.symm)

/-- After column 239 there is none. -/
theorem nextCol_last {c : Fin 240} (h : c.val = 239) : nextCol c = none := by
  rw [nextCol_eq, dif_neg (by omega)]

/-- The line after `l`. -/
theorem nextLine_of_succ {l l' : Fin 160} (h : l'.val = l.val + 1) : nextLine l = some l' := by
  unfold nextLine
  rw [dif_pos (by omega)]
  exact congrArg some (Fin.ext h.symm)

/-- After line 159 there is none (R41). -/
theorem nextLine_last {l : Fin 160} (h : l.val = 159) : nextLine l = none := by
  unfold nextLine
  rw [dif_neg (by omega)]

/-- The OAM entry after `e`. -/
theorem nextObj_of_succ {e e' : Fin 128} (h : e'.val = e.val + 1) : nextObj e = some e' := by
  unfold nextObj
  rw [dif_pos (by omega)]
  exact congrArg some (Fin.ext h.symm)

/-- After entry 127 there is none. -/
theorem nextObj_last {e : Fin 128} (h : e.val = 127) : nextObj e = none := by
  unfold nextObj
  rw [dif_neg (by omega)]

/-- Settles O15: each loop's end by the next column, line or entry, or none. -/
theorem loopsAdvanceInOrder : Obligations.LoopsAdvanceInOrder := by
  intro s l j c
  refine ⟨fun c' hc => ⟨fun n => ?_, fun n => ?_, ?_⟩,
    fun hc => ⟨fun n => ?_, fun n => ?_, fun l' hl => ?_, fun hl => ?_⟩,
    fun o ix => ⟨fun h => if_pos h, fun h => if_neg (by omega)⟩, fun e e' he => ?_, fun e he => ?_⟩
  · simp only [State.endTextCol, nextCol_of_succ hc]
  · simp only [State.endAffCol, nextCol_of_succ hc]
  · simp only [State.endCompose, nextCol_of_succ hc]
  · simp only [State.endTextCol, nextCol_last hc]
    rfl
  · simp only [State.endAffCol, nextCol_last hc]
    rfl
  · simp only [State.endCompose, nextCol_last hc, nextLine_of_succ hl]
  · simp only [State.endCompose, nextCol_last hc, nextLine_last hl]
  · simp only [State.endEntry, nextObj_of_succ he]
  · simp only [State.endEntry, nextObj_last he]

/-! ### Where the sequencer goes -/

/-- The sequencer goes forward from line `l`: it stays there, starts the next line, is done after line 159, or is in
FAULT (R41). -/
def Seq.forward (l : Fin 160) (q : Seq) : Prop :=
  (∃ ph, q = .line l ph) ∨ (∃ l' : Fin 160, l'.val = l.val + 1 ∧ q = .line l' (.select .mode)) ∨
    (l.val = 159 ∧ q = .done) ∨ q = .fault

theorem endTextCol_seq (s : State) (l : Fin 160) (j : Nat) (n : Fin 4) (c : Fin 240) :
    ∃ ph, (s.endTextCol l j n c).seq = .line l ph := by
  obtain ⟨c', -, e⟩ | ⟨-, e⟩ := endTextCol_cases s l j n c <;> exact ⟨_, by rw [e]; rfl⟩

theorem endAffCol_seq (s : State) (l : Fin 160) (j : Nat) (n : AffLayer) (c : Fin 240) :
    ∃ ph, (s.endAffCol l j n c).seq = .line l ph := by
  obtain ⟨c', -, e⟩ | ⟨-, e⟩ := endAffCol_cases s l j n c <;> exact ⟨_, by rw [e]; rfl⟩

theorem endObjCol_seq (s : State) (l : Fin 160) (j : Nat) (o : ObjDesc) (ix : Nat) :
    ∃ ph, (s.endObjCol l j o ix).seq = .line l ph := by
  obtain ⟨-, e⟩ | ⟨-, e⟩ := endObjCol_cases s l j o ix <;> exact ⟨_, by rw [e]; rfl⟩

theorem endEntry_seq (s : State) (l : Fin 160) (e : Fin 128) : ∃ ph, (s.endEntry l e).seq = .line l ph := by
  obtain ⟨e', -, h⟩ | ⟨-, h⟩ := endEntry_cases s l e <;> exact ⟨_, by rw [h]; rfl⟩

theorem endCompose_forward (s : State) (l : Fin 160) (c : Fin 240) : (s.endCompose l c).seq.forward l := by
  obtain ⟨c', -, e⟩ | ⟨-, l', hl, e⟩ | ⟨-, hl, e⟩ := endCompose_cases s l c <;> rw [e]
  · exact .inl ⟨_, rfl⟩
  · exact .inr (.inl ⟨l', hl, rfl⟩)
  · exact .inr (.inr (.inl ⟨hl, rfl⟩))

/-- Every move of a line goes forward. -/
theorem LineMove.forward {s t : State} {l : Fin 160} {i : Instr} {ph : Phase} (hm : LineMove s l i ph t) :
    t.seq.forward l := by
  cases hm with
  | toScan | toDraw | toGfx | toSize | goOn | objHidden => exact .inl ⟨_, rfl⟩
  | badMode | badObjMode | badObjShape => exact .inr (.inr (.inr rfl))
  | skip | take => exact .inl (endEntry_seq _ l _)
  | textTexel => exact .inl (endTextCol_seq _ l _ _ _)
  | affTexel | affClipped => exact .inl (endAffCol_seq _ l _ _ _)
  | objUnset | objTexel => exact .inl (endObjCol_seq _ l _ _ _)
  | compose => exact endCompose_forward _ l _

/-! ### What a move of a line leaves unchanged -/

/-- A VRAM read changes no input. -/
theorem sameInputs_of_read {s u : State} (hu : u = s ∨ u = s.countOob) : s.sameInputs u := by
  rcases hu with rfl | rfl <;> exact ⟨rfl, rfl, rfl, rfl, rfl, rfl, rfl⟩

/-- No move of a line changes an input (R20, R39). -/
theorem LineMove.sameInputs {s t : State} {l : Fin 160} {i : Instr} {ph : Phase} (hm : LineMove s l i ph t) :
    s.sameInputs t := by
  cases hm with
  | textTexel _ _ _ _ _ _ _ hu | affTexel _ _ _ _ _ _ _ hu =>
    obtain ⟨hcfg, hmem, hhost, hx2, hy2, hx3, hy3⟩ := sameInputs_of_read hu
    constructor <;> simpa
  | _ => constructor <;> simp

/-- Only the composing of a column changes the sink (R42). -/
theorem LineMove.sink {s t : State} {l : Fin 160} {i : Instr} {ph : Phase} (hm : LineMove s l i ph t) :
    t.sink = s.sink ∨ ∃ c, ph = .compose c := by
  cases hm with
  | compose c => exact .inr ⟨c, rfl⟩
  | textTexel _ _ _ _ _ _ _ hu | affTexel _ _ _ _ _ _ _ hu => rcases hu with rfl | rfl <;> simp
  | _ => simp

/-- Settles O6: every instruction completes in its place, by a move of the line. -/
theorem everyInstructionCompletesInItsPlace : Obligations.EveryInstructionCompletesInItsPlace := by
  intro i s l ph hs hi
  obtain ⟨t, ht, hm⟩ := exec_completes hs hi
  exact ⟨t, ht, hm.sameInputs, fun r off => by rw [hm.sameInputs.mem], hm.forward⟩

/-- Settles O51: a write of the hook leaves the sequencer where it is, and a move of the line goes forward. -/
theorem linesAscendAndNeverGoBack : Obligations.LinesAscendAndNeverGoBack := by
  intro s t l ph hs h
  obtain ⟨l', w, rest, hw⟩ | ⟨i, -, hm⟩ := step_line hs h
  · exact .inl ⟨ph, by rw [hw.next]; exact hs⟩
  · exact hm.forward

/-- Settles O48: in a line a step is a write of the hook or a move of the line, which changes no input; a due write is
the step. -/
theorem onlyTheLineHookWritesInsideAFrame : Obligations.OnlyTheLineHookWritesInsideAFrame := by
  refine ⟨fun s t hs h => ?_, fun s l l' r off more hon hs hl => ?_⟩
  · obtain ⟨l, ph, hs⟩ := hs
    obtain ⟨l', w, rest, hw⟩ | ⟨i, -, hm⟩ := step_line hs h
    · obtain ⟨hph, hon, hl, hhost, hlegal, rfl⟩ := hw
      exact ⟨rfl, rfl, rfl, rfl, rfl, .inr ⟨l, l', w, rest, hon, hl, hph ▸ hs, hhost, hlegal, rfl⟩⟩
    · obtain ⟨hcfg, hmem, hhost, hx2, hy2, hx3, hy3⟩ := hm.sameInputs
      exact ⟨hcfg, hx2, hy2, hx3, hy3, .inl ⟨hmem, hhost⟩⟩
  · have hstep : ∀ w, s.host = .hook l' w :: more → step s = (s.withHost more).hostWrite w := fun w hh =>
      step_of_hookDue hs (by simp only [State.hookDue, hh, hon, hl, and_self, if_true])
    exact ⟨fun v hh => hstep _ hh, fun v hh => hstep _ hh⟩

/-- Settles O52: a step in FAULT is outside a request, where the host's moves leave the block's state alone and RENDER
does not start. -/
theorem faultIsTerminal : Obligations.FaultIsTerminal := by
  refine ⟨fun s t r hfs hf h => ?_, fun s more hs hh => ?_⟩
  · have hs : s.seq = .fault := hfs.1 (by rw [hf]; rfl)
    obtain ⟨w, more, -, -, rfl⟩ | ⟨k, more, hh, rfl⟩ | ⟨more, -, -, hnone, -⟩ | rfl :=
      step_outside (not_inLine_of_fault hs) h
    · exact ⟨hf, hs, rfl, rfl, rfl, .inl rfl⟩
    · exact ⟨hf, hs, rfl, rfl, rfl, .inr ⟨more, hh⟩⟩
    · rw [hf] at hnone
      cases hnone
    · exact ⟨hf, hs, rfl, rfl, rfl, .inl rfl⟩
  · rcases hh with hh | hh
    · rw [step_of_no_move (not_inLine_of_fault hs) hh, if_pos hs]
    · rw [step_of_render (not_inLine_of_fault hs) hh]
      simp only [exec, execRender, State.withHost_seq, hs]

/-! ### The host's writes -/

/-- A 16-bit write in range reads back, byte by byte and whole, and leaves every other byte alone (R31, R62). -/
theorem Memory.write16_spec {m : Memory} {r : Region} {off : Nat} (v : Half) (hm : m.wf = true) (ho : off < r.size)
    (he : off % 2 = 0) :
    (m.write16 r off v).wf = true ∧ (m.write16 r off v).read16 r off = v ∧
      (m.write16 r off v).read8 r off = v.extractLsb' 0 8 ∧ (m.write16 r off v).read8 r (off + 1) = v.extractLsb' 8 8 ∧
      ∀ r' a, ¬(r' = r ∧ (a = off ∨ a = off + 1)) → (m.write16 r off v).read8 r' a = m.read8 r' a := by
  have hwf := Memory.write8_wf (v.extractLsb' 0 8) ho hm
  have hlo : (m.write16 r off v).read8 r off = v.extractLsb' 0 8 := by
    unfold Memory.write16
    rw [Memory.read8_write8_other _ (by omega), Memory.read8_write8_same hm]
  have hhi : (m.write16 r off v).read8 r (off + 1) = v.extractLsb' 8 8 := Memory.read8_write8_same hwf r _ _
  refine ⟨Memory.write16_wf v (by have := Region.size_even r; omega) hm, ?_, hlo, hhi, fun r' a h => ?_⟩
  · rw [Memory.read16, hlo, hhi, half_of_halfBytes]
  · unfold Memory.write16
    rw [Memory.read8_write8_other _ (fun e => h ⟨e.1, .inr e.2⟩),
      Memory.read8_write8_other _ (fun e => h ⟨e.1, .inl e.2⟩)]

/-- Settles O47: outside a request a step is the host's move; a legal write reads back, and the others stop. -/
theorem hostWritesStoreTheirBytes : Obligations.HostWritesStoreTheirBytes := by
  intro s more hm hs
  refine ⟨fun r off v ho hh => ?_, fun r off v ho he hh => ?_, fun k hh => step_of_sink hs hh, fun r off v ho hh => ?_,
    fun r off v ho he hh => ?_, fun r off v he hh => ?_, fun l w hh => step_of_hook hs hh, fun hh hq => ?_⟩
  · refine ⟨s.mem.write8 r off v, ?_, Memory.write8_wf v ho hm, Memory.read8_write8_same hm r off v,
      fun r' a h => Memory.read8_write8_other _ h v⟩
    rw [step_of_write hs hh]
    exact if_pos ho
  · refine ⟨s.mem.write16 r off v, ?_, Memory.write16_spec v hm ho he⟩
    rw [step_of_write hs hh]
    exact (hostWrite_legal _ _ _).2 ⟨⟨he, ho⟩, rfl⟩
  · rw [step_of_write hs hh]
    exact if_neg (by omega)
  · rw [step_of_write hs hh, State.hostWrite, if_neg (by omega), if_neg (by omega)]
  · rw [step_of_write hs hh, State.hostWrite, if_pos he]
  · rw [step_of_no_move hs hh, if_neg (by rcases hq with hq | hq <;> rw [hq] <;> nofun)]

/-! ### Composing -/

/-- Settles O46: a column is composed by one write of its cell, with a color that does not depend on the sink; of the
other steps only the host's handing over changes the sink. -/
theorem composingWritesOneCell : Obligations.ComposingWritesOneCell := by
  refine ⟨fun i s t l c hs h => ?_, fun s t h hne => ?_⟩
  · obtain ⟨f, hf, hk⟩ := exec_blend s (selector_of_exec_next hs h).symm
    rw [hf, composeCol_at hs] at h
    cases h
    have hcell (u : State) (l' : Fin 160) (c' : Fin 240) : (u.endCompose l c).cell l' c' = u.cell l' c' := by
      simp only [State.cell, State.endCompose_sink]
    refine ⟨fun k => ⟨_, (hk k).trans (composeCol_at (s := s.withSink k) hs f), ?_⟩, fun l' c' hne => ?_, ?_⟩
    · rw [hcell, hcell, State.frameWrite_cell_same, State.frameWrite_cell_same]
      rfl
    · rw [hcell, State.frameWrite_cell_other s hne]
    · simp
  · by_cases hs : s.inLine
    · obtain ⟨l, ph, hs⟩ := hs
      obtain ⟨l', w, rest, hw⟩ | ⟨i, -, hm⟩ := step_line hs h
      · rw [hw.next] at hne
        exact absurd rfl hne
      · obtain hsame | ⟨c, rfl⟩ := hm.sink
        · exact absurd hsame hne
        · exact .inl ⟨l, c, hs⟩
    · obtain ⟨w, more, -, -, rfl⟩ | ⟨k, more, hh, rfl⟩ | ⟨more, -, -, -, rfl⟩ | rfl := step_outside hs h
      · exact absurd rfl hne
      · exact .inr ⟨hs, more, hh, rfl⟩
      · exact absurd rfl hne
      · exact absurd rfl hne

/-! ### Drawing -/

/-- The layers kept at the start of a draw step are a tail of those there were (R221). -/
theorem startDraw_layers (s : State) (l : Fin 160) (j : Nat) : (s.startDraw l j).layers <:+ s.layers :=
  (pickDraw_cases s s.layers).1

/-- At the end of a layer some more layers may be dropped. -/
theorem endLayer_layers (s : State) (l : Fin 160) (j : Nat) : (s.endLayer l j).layers <:+ s.layers :=
  (startDraw_layers _ l (j + 1)).trans (List.tail_suffix _)

/-- A regular layer's column drops layers only at column 239. -/
theorem endTextCol_layers (s : State) (l : Fin 160) (j : Nat) (n : Fin 4) (c : Fin 240) :
    (s.endTextCol l j n c).layers = s.layers ∨ (s.endTextCol l j n c).layers <:+ s.layers ∧ c.val = 239 := by
  obtain ⟨c', -, e⟩ | ⟨hc, e⟩ := endTextCol_cases s l j n c <;> rw [e]
  · exact .inl rfl
  · exact .inr ⟨endLayer_layers s l j, hc⟩

/-- An affine layer's column drops layers only at column 239. -/
theorem endAffCol_layers (s : State) (l : Fin 160) (j : Nat) (n : AffLayer) (c : Fin 240) :
    (s.endAffCol l j n c).layers = s.layers ∨ (s.endAffCol l j n c).layers <:+ s.layers ∧ c.val = 239 := by
  obtain ⟨c', -, e⟩ | ⟨hc, e⟩ := endAffCol_cases s l j n c <;> rw [e]
  · exact .inl rfl
  · exact .inr ⟨endLayer_layers s l j, hc⟩

/-- An object's box column moves the cursor, by one, and drops layers only when it is the last (R196, R200). -/
theorem endObjCol_frame (s : State) (l : Fin 160) (j : Nat) (o : ObjDesc) (ix : Nat) :
    ((s.endObjCol l j o ix).k = s.k ∧ (s.endObjCol l j o ix).layers = s.layers) ∨
    ((s.endObjCol l j o ix).k = s.k + 1 ∧ (s.endObjCol l j o ix).layers <:+ s.layers ∧ o.bw ≤ ix + 1) := by
  obtain ⟨-, e⟩ | ⟨hix, e⟩ := endObjCol_cases s l j o ix <;> rw [e]
  · exact .inl ⟨rfl, rfl⟩
  · exact .inr ⟨rfl, startDraw_layers _ l (j + 1), hix⟩

/-- The end of an object's box column ends the object only at the last. -/
theorem endsObject_of_last {i : Instr} {p : DrawPos} {o : ObjDesc} {ix : Nat} (hp : p.objCol = some (o, ix))
    (hix : o.bw ≤ ix + 1) : endsObject i p := ⟨o, ix, hp, .inl hix⟩

/-- A VRAM read keeps the layers. -/
theorem layers_of_read {s u : State} (hu : u = s ∨ u = s.countOob) : u.layers = s.layers := by
  rcases hu with rfl | rfl <;> rfl

/-- A VRAM read keeps the row. -/
theorem row_of_read {s u : State} (hu : u = s ∨ u = s.countOob) : u.row = s.row := by
  rcases hu with rfl | rfl <;> rfl

/-- A column plots at most its own Pixel. -/
theorem column_of_plot {s t u : State} {c d : Fin 240} {idx : Byte} {col : Color15} {top bot : Bool}
    (hu : u.row = s.row) (ht : t.row = (u.plotIndex c idx col top bot).row) (hd : t.pixel d ≠ s.pixel d) : d = c := by
  by_contra hne
  have htu : t.pixel d = (u.plotIndex c idx col top bot).pixel d := by simp only [State.pixel, ht]
  have hus : u.pixel d = s.pixel d := by simp only [State.pixel, hu]
  exact hd (htu.trans ((plotIndex_pixel_other u hne idx col top bot).trans hus))

section Drawing

variable {s t : State} {l : Fin 160} {i : Instr} {j : Nat} {p : DrawPos}

/-- Drawing leaves the fault record, the object list and the sink alone (R38, R42). -/
theorem LineMove.draw_fixed (hm : LineMove s l i (.draw j p) t) :
    t.fault = s.fault ∧ t.objs = s.objs ∧ t.sink = s.sink := by
  cases hm with
  | textTexel _ _ _ _ _ _ _ hu | affTexel _ _ _ _ _ _ _ hu => rcases hu with rfl | rfl <;> simp
  | _ => simp

/-- Drawing moves the cursor by one, at the end of an object only (R38, R221). -/
theorem LineMove.draw_cursor (hm : LineMove s l i (.draw j p) t) : t.k = s.k ∨ t.k = s.k + 1 ∧ endsObject i p := by
  cases hm with
  | textTexel _ _ _ _ _ _ _ hu | affTexel _ _ _ _ _ _ _ hu => rcases hu with rfl | rfl <;> simp
  | goOn | affClipped => simp
  | objHidden a j o ix => exact .inr ⟨rfl, o, ix, rfl, .inr ⟨a, rfl⟩⟩
  | objUnset j o ix =>
    obtain ⟨hk, -⟩ | ⟨hk, -, hix⟩ := endObjCol_frame s l j o ix
    · exact .inl hk
    · exact .inr ⟨hk, endsObject_of_last rfl hix⟩
  | objTexel j o ix c tn px py idx col =>
    obtain ⟨hk, -⟩ | ⟨hk, -, hix⟩ := endObjCol_frame (s.plotObj c idx col) l j o ix <;> rw [State.plotObj_k] at hk
    · exact .inl hk
    · exact .inr ⟨hk, endsObject_of_last rfl hix⟩

/-- Drawing drops layers only at the end of a layer or an object (R221). -/
theorem LineMove.draw_layers (hm : LineMove s l i (.draw j p) t) :
    t.layers = s.layers ∨ t.layers <:+ s.layers ∧ (p.endsLayer ∨ endsObject i p) := by
  cases hm with
  | goOn => exact .inl rfl
  | textTexel j n c tile bank px py hu idx col =>
    rw [← (State.plotBg_layers _ n c idx col).trans (layers_of_read hu)]
    exact (endTextCol_layers _ l j n c).imp_right fun ⟨h, hc⟩ => ⟨h, .inl ⟨c, rfl, hc⟩⟩
  | affTexel j n c addr base fx fy hu idx col =>
    rw [← (State.plotBg_layers _ n.bg c idx col).trans (layers_of_read hu)]
    exact (endAffCol_layers _ l j n c).imp_right fun ⟨h, hc⟩ => ⟨h, .inl ⟨c, rfl, hc⟩⟩
  | affClipped j n c =>
    exact (endAffCol_layers s l j n c).imp_right fun ⟨h, hc⟩ => ⟨h, .inl ⟨c, rfl, hc⟩⟩
  | objHidden a j o ix => exact .inr ⟨startDraw_layers _ l (j + 1), .inr ⟨o, ix, rfl, .inr ⟨a, rfl⟩⟩⟩
  | objUnset j o ix =>
    obtain ⟨-, h⟩ | ⟨-, h, hix⟩ := endObjCol_frame s l j o ix
    · exact .inl h
    · exact .inr ⟨h, .inr (endsObject_of_last rfl hix)⟩
  | objTexel j o ix c tn px py idx col =>
    obtain ⟨-, h⟩ | ⟨-, h, hix⟩ := endObjCol_frame (s.plotObj c idx col) l j o ix <;> rw [State.plotObj_layers] at h
    · exact .inl h
    · exact .inr ⟨h, .inr (endsObject_of_last rfl hix)⟩

/-- The column a position offers a color to, where it does. -/
def DrawPos.plotCol : DrawPos → Option (Fin 240)
  | .textDepth _ c _ _ _ _ => some c
  | .affEntry _ c _ _ _ _ => some c
  | .objDepth _ _ c _ _ _ => some c
  | _ => none

/-- Drawing changes at most the Pixel of its column (R37). -/
theorem LineMove.draw_pixel (hm : LineMove s l i (.draw j p) t) {d : Fin 240} (hd : t.pixel d ≠ s.pixel d) :
    p.plotCol = some d := by
  cases hm with
  | textTexel j n c _ _ _ _ hu idx col =>
    exact congrArg some (column_of_plot (row_of_read hu) (State.endTextCol_row _ l j n c) hd).symm
  | affTexel j n c _ _ _ _ hu idx col =>
    exact congrArg some (column_of_plot (row_of_read hu) (State.endAffCol_row _ l j n c) hd).symm
  | objTexel j o ix c => exact congrArg some (column_of_plot rfl (State.endObjCol_row _ l j o ix) hd).symm
  | _ => exact absurd (by simp [State.pixel]) hd

/-- Drawing an object draws nothing from beyond VRAM (R147). -/
theorem LineMove.draw_oobReads (hm : LineMove s l i (.draw j p) t) (hp : p.objCol.isSome = true) :
    t.oobReads = s.oobReads := by
  cases hm with
  | textTexel | affTexel => cases hp
  | _ => simp

end Drawing

/-- Settles O44: what each move of a draw position changes. -/
theorem drawingChangesOnlyItsColumn : Obligations.DrawingChangesOnlyItsColumn := by
  intro i s t l j p hs h
  have hm := lineMove_of_exec_next hs h
  obtain ⟨hfault, hobjs, hsink⟩ := hm.draw_fixed
  refine ⟨hfault, hobjs, hsink, hm.draw_cursor, hm.draw_layers, fun d hd => ?_, hm.draw_oobReads⟩
  have hc := hm.draw_pixel hd
  cases p
  case textDepth | affEntry | objDepth => exact (Option.some.inj hc).symm
  all_goals cases hc

end Sys2Proof.Machine
end

section
/-! SUPPORT. Non-interference (R32, R36): regions that agree on the bits a line may read give the same registers,
palette colors, attributes and texels, so every operation of a line commutes with exchanging them. -/

namespace Sys2Proof.Machine

open Sys2Proof.Config

/-! ### Words that agree under a mask -/

/-- Words that agree under a mask have the same bits where the mask has all of them. -/
theorem extract_of_and {w w' k : Half} (h : w' &&& k = w &&& k) (start len : Nat)
    (hk : k.extractLsb' start len = BitVec.allOnes len) : w'.extractLsb' start len = w.extractLsb' start len := by
  have he := congrArg (BitVec.extractLsb' start len) h
  simpa only [BitVec.extractLsb'_and, hk, BitVec.and_allOnes] using he

/-- Words that agree under a mask have the same bit where the mask has it. -/
theorem bit_of_and {w w' k : Half} (h : w' &&& k = w &&& k) (b : Nat) (hk : k.getLsbD b = true) :
    w'.getLsbD b = w.getLsbD b := by
  have he := congrArg (BitVec.getLsbD · b) h
  simpa only [BitVec.getLsbD_and, hk, Bool.and_true] using he

/-- Words that agree under the full mask are equal. -/
theorem eq_of_and_full {w w' : Half} (h : w' &&& 0xFFFF = w &&& 0xFFFF) : w' = w := by
  have hfull : (0xFFFF : Half) = BitVec.allOnes 16 := by decide
  simpa only [hfull, BitVec.and_allOnes] using h

/-- Regions that agree on the bits of a mask have words that agree on the mask's word. -/
theorem read16_agree {mask : Region → Nat → Byte} {m m' : Memory} (h : agreeUnder mask m m') (r : Region) (off : Nat)
    {k : Half} (hk : half (mask r off) (mask r (off + 1)) = k) : m'.read16 r off &&& k = m.read16 r off &&& k := by
  rw [← hk]
  exact (BitVec.and_append ..).trans ((congrArg₂ _ (h r (off + 1)) (h r off)).trans (BitVec.and_append ..).symm)

/-- DISPCNT words that agree on the bits a line reads differ at most in the ignored fields (R23). -/
theorem DispCnt.ofWord_agree {w w' : Half} (h : w' &&& 0x1F47 = w &&& 0x1F47) :
    ∃ a b c, DispCnt.ofWord w' = { DispCnt.ofWord w with bits53 := a, forcedBlank := b, windows := c } := by
  refine ⟨_, _, _, DispCnt.mk.injEq .. |>.mpr ⟨?_, rfl, ?_, rfl, ?_, ?_, rfl⟩⟩
  · exact extract_of_and h 0 3 (by decide)
  · exact bit_of_and h 6 (by decide)
  · exact extract_of_and h 8 4 (by decide)
  · exact bit_of_and h 12 (by decide)

/-- BGnCNT words that agree on the bits every step reads differ at most in the ignored fields and the overflow bit
(R24). -/
theorem BgCnt.ofWord_agree {w w' : Half} (h : w' &&& 0xDF8F = w &&& 0xDF8F) :
    ∃ a b c, BgCnt.ofWord w' = { BgCnt.ofWord w with bits54 := a, mosaic := b, overflow := c } := by
  refine ⟨_, _, _, BgCnt.mk.injEq .. |>.mpr ⟨?_, ?_, rfl, rfl, ?_, ?_, rfl, ?_⟩⟩
  · exact extract_of_and h 0 2 (by decide)
  · exact extract_of_and h 2 2 (by decide)
  · exact bit_of_and h 7 (by decide)
  · exact extract_of_and h 8 5 (by decide)
  · exact extract_of_and h 14 2 (by decide)

/-- BLDCNT words that agree on the bits a line reads differ at most in bits 15:14 (R28). -/
theorem BldCnt.ofWord_agree {w w' : Half} (h : w' &&& 0x3FFF = w &&& 0x3FFF) :
    ∃ a, BldCnt.ofWord w' = { BldCnt.ofWord w with bitsFE := a } := by
  refine ⟨_, BldCnt.mk.injEq .. |>.mpr ⟨?_, ?_, ?_, ?_, ?_, ?_, ?_, rfl⟩⟩
  · exact extract_of_and h 0 4 (by decide)
  · exact bit_of_and h 4 (by decide)
  · exact bit_of_and h 5 (by decide)
  · exact extract_of_and h 6 2 (by decide)
  · exact extract_of_and h 8 4 (by decide)
  · exact bit_of_and h 12 (by decide)
  · exact bit_of_and h 13 (by decide)

/-- attr0 words that agree on the bits a line reads differ at most in the mosaic bit (R203). -/
theorem Attr0.ofWord_agree {w w' : Half} (h : w' &&& 0xEFFF = w &&& 0xEFFF) :
    ∃ a, Attr0.ofWord w' = { Attr0.ofWord w with mosaic := a } := by
  refine ⟨_, Attr0.mk.injEq .. |>.mpr ⟨?_, ?_, ?_, rfl, ?_, ?_⟩⟩
  · exact extract_of_and h 0 8 (by decide)
  · exact extract_of_and h 8 2 (by decide)
  · exact extract_of_and h 10 2 (by decide)
  · exact bit_of_and h 13 (by decide)
  · exact extract_of_and h 14 2 (by decide)

/-! ### The words of a line -/

section Agree

variable {q : Seq} {m m' : Memory}

theorem dispCnt_agree (h : agreeUnder (lineMask q) m m') :
    ∃ a b c, DispCnt.ofWord (m'.read16 .io 0x000) =
      { DispCnt.ofWord (m.read16 .io 0x000) with bits53 := a, forcedBlank := b, windows := c } :=
  DispCnt.ofWord_agree (read16_agree h .io 0x000 (by simp [lineMask, ioMask, half]))

/-- The mask of a BGnCNT word: its overflow bit is read at that layer's overflow selector only (R24). -/
theorem bgCnt_mask (q : Seq) (n : Fin 4) :
    half (lineMask q .io (0x008 + 2 * n.val)) (lineMask q .io (0x008 + 2 * n.val + 1)) =
      if q.overflowBg = some n then 0xFF8F else 0xDF8F := by
  have hn : Fin.ofNat 4 ((0x008 + 2 * n.val + 1 - 0x008) / 2) = n := Fin.ext (by simp only [Fin.ofNat]; omega)
  have hlo : lineMask q .io (0x008 + 2 * n.val) = 0x8F := by
    simp only [lineMask, ioMask]
    rw [if_neg (by omega), if_neg (by omega), if_neg (by omega), if_pos (by omega), if_pos (by omega)]
  have hhi : lineMask q .io (0x008 + 2 * n.val + 1) = if q.overflowBg = some n then 0xFF else 0xDF := by
    simp only [lineMask, ioMask]
    rw [if_neg (by omega), if_neg (by omega), if_neg (by omega), if_pos (by omega), if_neg (by omega), hn]
  rw [hlo, hhi]
  split <;> decide

theorem bgCnt_agree (h : agreeUnder (lineMask q) m m') (n : Fin 4) :
    ∃ a b c, BgCnt.ofWord (m'.read16 .io (0x008 + 2 * n.val)) =
      { BgCnt.ofWord (m.read16 .io (0x008 + 2 * n.val)) with bits54 := a, mosaic := b, overflow := c } := by
  have hw := read16_agree h .io _ (bgCnt_mask q n)
  refine BgCnt.ofWord_agree ?_
  split at hw
  · have hsub : (0xDF8F : Half) = 0xFF8F &&& 0xDF8F := by decide
    rw [hsub, ← BitVec.and_assoc, ← BitVec.and_assoc, hw]
  · exact hw

/-- At a layer's overflow selector, its overflow bit is read. -/
theorem bgOverflow_agree (h : agreeUnder (lineMask q) m m') {n : Fin 4} (hq : q.overflowBg = some n) :
    (BgCnt.ofWord (m'.read16 .io (0x008 + 2 * n.val))).overflow =
      (BgCnt.ofWord (m.read16 .io (0x008 + 2 * n.val))).overflow :=
  bit_of_and (read16_agree h .io _ ((bgCnt_mask q n).trans (if_pos hq))) 13 (by decide)

/-- The nine bits of a scroll (R25). -/
theorem scroll_agree (h : agreeUnder (lineMask q) m m') {off : Nat} (h0 : 0x010 ≤ off) (h1 : off < 0x020)
    (he : off % 2 = 0) : scroll (m'.read16 .io off) = scroll (m.read16 .io off) := by
  refine extract_of_and (k := half 0xFF 0x01) (read16_agree h .io off ?_) 0 9 (by decide)
  simp only [lineMask, ioMask]
  congr 1
  · rw [if_neg (by omega), if_neg (by omega), if_neg (by omega), if_neg (by omega), if_pos (by omega), if_pos he]
  · rw [if_neg (by omega), if_neg (by omega), if_neg (by omega), if_neg (by omega), if_pos (by omega),
      if_neg (by omega)]

/-- The coefficients of an affine layer (R26). -/
theorem coef_agree (h : agreeUnder (lineMask q) m m') {off : Nat} (h0 : 0x020 ≤ off) (h1 : off < 0x040)
    (he : off % 2 = 0) (h8 : off % 16 < 8) : m'.read16 .io off = m.read16 .io off := by
  refine eq_of_and_full (read16_agree h .io off (k := half 0xFF 0xFF) ?_)
  simp only [lineMask, ioMask]
  congr 1
  · rw [if_neg (by omega), if_neg (by omega), if_neg (by omega), if_neg (by omega), if_neg (by omega),
      if_pos (by omega), if_pos h8]
  · rw [if_neg (by omega), if_neg (by omega), if_neg (by omega), if_neg (by omega), if_neg (by omega),
      if_pos (by omega), if_pos (by omega)]

theorem bldCnt_agree (h : agreeUnder (lineMask q) m m') :
    ∃ a, BldCnt.ofWord (m'.read16 .io 0x050) = { BldCnt.ofWord (m.read16 .io 0x050) with bitsFE := a } :=
  BldCnt.ofWord_agree (read16_agree h .io 0x050 (by simp [lineMask, ioMask, half]))

theorem vram_agree (h : agreeUnder (lineMask q) m m') (off : Nat) : m'.read8 .vram off = m.read8 .vram off := by
  have hv := h .vram off
  have hfull : (0xFF : Byte) = BitVec.allOnes 8 := by decide
  simpa only [lineMask, hfull, BitVec.and_allOnes] using hv

theorem attr0_agree (h : agreeUnder (lineMask q) m m') (e : Fin 128) :
    ∃ a, Attr0.ofWord (m'.read16 .oam (8 * e.val)) = { Attr0.ofWord (m.read16 .oam (8 * e.val)) with mosaic := a } := by
  refine Attr0.ofWord_agree (read16_agree h .oam _ ?_)
  simp only [lineMask]
  rw [if_neg (by omega), if_pos (by omega)]
  decide

/-- The words of OAM but attr0 (R93–R95). -/
theorem oam_agree (h : agreeUnder (lineMask q) m m') {off : Nat} (he : off % 2 = 0) (h0 : off % 8 ≠ 0) :
    m'.read16 .oam off = m.read16 .oam off := by
  refine eq_of_and_full (read16_agree h .oam off ?_)
  simp only [lineMask]
  rw [if_neg (by omega), if_neg (by omega)]
  decide

/-- A palette color, without bit 15 of its word (R160). -/
theorem color_agree (h : agreeUnder (lineMask q) m m') {off : Nat} (he : off % 2 = 0) :
    colorOf (m'.read16 .pal off) = colorOf (m.read16 .pal off) := by
  refine extract_of_and (k := half 0xFF 0x7F) (read16_agree h .pal off ?_) 0 15 (by decide)
  simp only [lineMask]
  rw [if_pos he, if_neg (by omega)]

end Agree

/-! ### The operations of a line, with the regions exchanged -/

section WithMem

variable {q : Seq} {s : State} {m : Memory}

theorem layerPrio_withMem (h : agreeUnder (lineMask q) s.mem m) (a : Layer) :
    (s.withMem m).layerPrio a = s.layerPrio a := by
  cases a with
  | text n =>
    obtain ⟨_, _, _, e⟩ := bgCnt_agree h n
    exact (congrArg BgCnt.prio e :)
  | affine n =>
    obtain ⟨_, _, _, e⟩ := bgCnt_agree h n.bg
    exact (congrArg BgCnt.prio e :)

theorem layerEnabled_withMem (h : agreeUnder (lineMask q) s.mem m) (a : Layer) :
    (s.withMem m).layerEnabled a = s.layerEnabled a := by
  obtain ⟨_, _, _, e⟩ := dispCnt_agree h
  exact (congrArg (fun d => layerBit (DispCnt.bgEn d) a.bg) e :)

theorem layerBefore_withMem (h : agreeUnder (lineMask q) s.mem m) : (s.withMem m).layerBefore = s.layerBefore := by
  funext a b
  simp only [State.layerBefore, layerPrio_withMem h]

theorem pickDraw_withMem (h : agreeUnder (lineMask q) s.mem m) (ls : List Layer) :
    pickDraw (s.withMem m) ls = pickDraw s ls := by
  induction ls with
  | nil => rfl
  | cons a rest ih =>
    simp only [pickDraw, State.withMem_objs, State.withMem_k, layerPrio_withMem h, layerEnabled_withMem h, ih]

theorem startDraw_withMem (h : agreeUnder (lineMask q) s.mem m) (l : Fin 160) (j : Nat) :
    (s.withMem m).startDraw l j = (s.startDraw l j).withMem m := by
  simp only [State.startDraw, State.withMem_layers, pickDraw_withMem h]
  rfl

theorem endLayer_withMem (h : agreeUnder (lineMask q) s.mem m) (l : Fin 160) (j : Nat) :
    (s.withMem m).endLayer l j = (s.endLayer l j).withMem m :=
  startDraw_withMem (s := s.withLayers s.layers.tail) h l (j + 1)

theorem endObj_withMem (h : agreeUnder (lineMask q) s.mem m) (l : Fin 160) (j : Nat) :
    (s.withMem m).endObj l j = (s.endObj l j).withMem m :=
  startDraw_withMem (s := s.withCursor (s.k + 1)) h l (j + 1)

theorem endTextCol_withMem (h : agreeUnder (lineMask q) s.mem m) (l : Fin 160) (j : Nat) (n : Fin 4) (c : Fin 240) :
    (s.withMem m).endTextCol l j n c = (s.endTextCol l j n c).withMem m := by
  unfold State.endTextCol
  cases nextCol c with
  | some c' => rfl
  | none => exact endLayer_withMem h l j

theorem endAffCol_withMem (h : agreeUnder (lineMask q) s.mem m) (l : Fin 160) (j : Nat) (n : AffLayer) (c : Fin 240) :
    (s.withMem m).endAffCol l j n c = (s.endAffCol l j n c).withMem m := by
  unfold State.endAffCol
  cases nextCol c with
  | some c' => rfl
  | none => exact endLayer_withMem h l j

theorem endObjCol_withMem (h : agreeUnder (lineMask q) s.mem m) (l : Fin 160) (j : Nat) (o : ObjDesc) (ix : Nat) :
    (s.withMem m).endObjCol l j o ix = (s.endObjCol l j o ix).withMem m := by
  unfold State.endObjCol
  split
  · rfl
  · exact endObj_withMem h l j

theorem endEntry_withMem (h : agreeUnder (lineMask q) s.mem m) (l : Fin 160) (e : Fin 128) :
    (s.withMem m).endEntry l e = (s.endEntry l e).withMem m := by
  unfold State.endEntry
  cases nextObj e with
  | some e' => rfl
  | none => exact startDraw_withMem (s := (s.withObjs (sortBy objBefore s.objs)).withCursor 0) h l 0

theorem endCompose_withMem (s : State) (m : Memory) (l : Fin 160) (c : Fin 240) :
    (s.withMem m).endCompose l c = (s.endCompose l c).withMem m := by
  unfold State.endCompose
  cases nextCol c with
  | some c' => rfl
  | none => cases nextLine l <;> rfl

/-! Reads -/

theorem vramByte_withMem (h : agreeUnder (lineMask q) s.mem m) (off : Nat) :
    (s.withMem m).vramByte off = ((s.vramByte off).1, (s.vramByte off).2.withMem m) := by
  unfold State.vramByte
  split
  · exact congrArg (·, s.withMem m) (vram_agree h off)
  · rfl

theorem texel4_withMem (h : agreeUnder (lineMask q) s.mem m) (sp : Space) (rowoff px : Nat) :
    (s.withMem m).texel4 sp rowoff px = ((s.texel4 sp rowoff px).1, (s.texel4 sp rowoff px).2.withMem m) := by
  simp only [State.texel4, vramByte_withMem h]

theorem texel8_withMem (h : agreeUnder (lineMask q) s.mem m) (sp : Space) (rowoff px : Nat) :
    (s.withMem m).texel8 sp rowoff px = ((s.texel8 sp rowoff px).1, (s.texel8 sp rowoff px).2.withMem m) := by
  simp only [State.texel8, vramByte_withMem h]

theorem Palette.base_even (t : Palette) : t.base % 2 = 0 := by cases t <;> rfl

theorem palette4_withMem (h : agreeUnder (lineMask q) s.mem m) (t : Palette) (pb : BitVec 4) (idx : Byte) :
    (s.withMem m).palette4 t pb idx = s.palette4 t pb idx :=
  color_agree h (by have := t.base_even; omega)

theorem palette8_withMem (h : agreeUnder (lineMask q) s.mem m) (t : Palette) (idx : Byte) :
    (s.withMem m).palette8 t idx = s.palette8 t idx :=
  color_agree h (by have := t.base_even; omega)

theorem backdrop_withMem (h : agreeUnder (lineMask q) s.mem m) : (s.withMem m).backdrop = s.backdrop :=
  color_agree h rfl

theorem affData_withMem (h : agreeUnder (lineMask q) s.mem m) (n : AffLayer) :
    (s.withMem m).affData n = s.affData n := by
  have hc (d : Nat) (hd : d < 8) (he : d % 2 = 0) : m.read16 .io (n.base + d) = s.mem.read16 .io (n.base + d) := by
    cases n <;> exact coef_agree h (by simp only [AffLayer.base]; omega) (by simp only [AffLayer.base]; omega)
      (by simp only [AffLayer.base]; omega) (by simp only [AffLayer.base]; omega)
  have h0 := hc 0 (by decide) (by decide)
  simp only [Nat.add_zero] at h0
  simp only [State.affData, State.withMem_mem, State.withMem_x2, State.withMem_y2, State.withMem_x3, State.withMem_y3,
    h0, hc 2 (by decide) (by decide), hc 4 (by decide) (by decide), hc 6 (by decide) (by decide)]

theorem bgData_scrolls_withMem (h : agreeUnder (lineMask q) s.mem m) (n : Fin 4) :
    ((s.withMem m).bgData n).hofs = (s.bgData n).hofs ∧ ((s.withMem m).bgData n).vofs = (s.bgData n).vofs :=
  ⟨scroll_agree h (by omega) (by omega) (by omega), scroll_agree h (by omega) (by omega) (by omega)⟩

theorem bgData_flags_withMem (h : agreeUnder (lineMask q) s.mem m) (n : Fin 4) :
    ((s.withMem m).bgData n).top = (s.bgData n).top ∧ ((s.withMem m).bgData n).bot = (s.bgData n).bot := by
  obtain ⟨_, e⟩ := bldCnt_agree h
  exact ⟨(congrArg (fun b => layerBit (BldCnt.topBg b) n) e :),
    (congrArg (fun b => layerBit (BldCnt.bottomBg b) n) e :)⟩

theorem plotBg_withMem (h : agreeUnder (lineMask q) s.mem m) (n : Fin 4) (c : Fin 240) (idx : Byte) (col : Color15) :
    (s.withMem m).plotBg n c idx col = (s.plotBg n c idx col).withMem m := by
  obtain ⟨ht, hb⟩ := bgData_flags_withMem h n
  simp only [State.plotBg, State.plotIndex, ht, hb]
  split <;> rfl

theorem plotObj_withMem (h : agreeUnder (lineMask q) s.mem m) (c : Fin 240) (idx : Byte) (col : Color15) :
    (s.withMem m).plotObj c idx col = (s.plotObj c idx col).withMem m := by
  obtain ⟨_, e⟩ := bldCnt_agree h
  have ht : (s.withMem m).bldCnt.topObj = s.bldCnt.topObj := (congrArg BldCnt.topObj e :)
  have hb : (s.withMem m).bldCnt.bottomObj = s.bldCnt.bottomObj := (congrArg BldCnt.bottomObj e :)
  simp only [State.plotObj, State.plotIndex, ht, hb]
  split <;> rfl

theorem objAttr2_withMem (h : agreeUnder (lineMask q) s.mem m) (e : Fin 128) :
    (s.withMem m).objAttr2 e = s.objAttr2 e :=
  congrArg Attr2.ofWord (oam_agree h (by omega) (by omega))

theorem objMatrix_withMem (h : agreeUnder (lineMask q) s.mem m) (k : BitVec 5) :
    (s.withMem m).objMatrix k = s.objMatrix k := by
  have hc (d : Nat) : m.read16 .oam (8 * (4 * k.toNat + d) + 6) = s.mem.read16 .oam (8 * (4 * k.toNat + d) + 6) :=
    oam_agree h (by omega) (by omega)
  simp only [State.objMatrix, State.withMem_mem, hc]

theorem coefficients_withMem (h : agreeUnder (lineMask q) s.mem m) :
    (s.withMem m).eva = s.eva ∧ (s.withMem m).evb = s.evb ∧ (s.withMem m).evy = s.evy := by
  have ha := read16_agree h .io 0x052 (k := 0x1F1F) (by simp [lineMask, ioMask, half])
  have hy := read16_agree h .io 0x054 (k := 0x001F) (by simp [lineMask, ioMask, half])
  exact ⟨congrArg clampCoef (extract_of_and ha 0 5 (by decide)), congrArg clampCoef (extract_of_and ha 8 5 (by decide)),
    congrArg clampCoef (extract_of_and hy 0 5 (by decide))⟩

/-! ### The instructions, with the regions exchanged -/

/-- An outcome of a state is that of the state with other regions, but for the regions. -/
def SameNext (m : Memory) (r' r : Result) : Prop := r' = mapNext (fun t => t.withMem m) r

/-- Next states that differ in the regions only. -/
theorem sameNext_next {m : Memory} {t t' : State} (h : t' = t.withMem m) : SameNext m (.next t') (.next t) :=
  congrArg Host.Outcome.next h

variable {l : Fin 160} {j : Nat}

theorem startM01_withMem (h : agreeUnder (lineMask q) s.mem m) (hs : s.seq = .line l (.select .mode))
    (lay : List Layer) {d d' : DispCnt} (hd : d'.objEn = d.objEn) :
    SameNext m (startM01 lay d' (s.withMem m)) (startM01 lay d s) := by
  rw [startM01_at hs, startM01_at (s := s.withMem m) hs, hd, layerBefore_withMem h]
  refine sameNext_next ?_
  split
  · rfl
  · exact startDraw_withMem (s := s.startLine.withLayers _) h l 0

theorem execMode2_withMem (h : agreeUnder (lineMask q) s.mem m) (hs : s.seq = .line l (.select .mode))
    (d d' : DispCnt) : SameNext m (exec (.mode2 d') (s.withMem m)) (exec (.mode2 d) s) := by
  have hl : mode2Layers (s.withMem m) = mode2Layers s := by
    simp only [mode2Layers, layerPrio_withMem h, State.withMem_cfg]
  rw [execMode2_at hs, execMode2_at (s := s.withMem m) hs, hl]
  exact sameNext_next (startDraw_withMem (s := s.startLine.withLayers _) h l 0)

theorem badMode_withMem (hs : s.seq = .line l (.select .mode)) : SameNext m (badMode (s.withMem m)) (badMode s) := by
  rw [badMode_at hs, badMode_at (s := s.withMem m) hs]
  exact sameNext_next rfl

/-- The mode dispatch reads BGMODE, OBJEN and the layers' priorities and enable bits (R219). -/
theorem decodeBgMode_withMem (h : agreeUnder (lineMask q) s.mem m) (hs : s.seq = .line l (.select .mode)) :
    SameNext m (exec (decodeBgMode (m.read16 .io 0x000)) (s.withMem m))
      (exec (decodeBgMode (s.mem.read16 .io 0x000)) s) := by
  obtain ⟨_, _, _, e⟩ := dispCnt_agree h
  simp only [decodeBgMode, e]
  split
  · exact startM01_withMem h hs _ rfl
  · exact startM01_withMem h hs _ rfl
  · exact execMode2_withMem h hs _ _
  all_goals exact badMode_withMem hs

/-- The object scan reads RM (R190). -/
theorem decodeObjRender_scan_withMem (h : agreeUnder (lineMask q) s.mem m) {e : Fin 128}
    (hs : s.seq = .line l (.select (.render e))) :
    SameNext m (exec (decodeObjRender (m.read16 .oam (8 * e.val))) (s.withMem m))
      (exec (decodeObjRender (s.mem.read16 .oam (8 * e.val))) s) := by
  obtain ⟨_, ha⟩ := attr0_agree h e
  simp only [decodeObjRender, ha]
  split
  · rw [execObjRegular_scan hs, execObjRegular_scan (s := s.withMem m) hs]
    exact sameNext_next rfl
  · rw [execObjAffine_scan hs, execObjAffine_scan (s := s.withMem m) hs]
    exact sameNext_next rfl
  · rw [execObjHidden_scan hs, execObjHidden_scan (s := s.withMem m) hs]
    exact sameNext_next (endEntry_withMem h l e)
  · rw [execObjAffineDouble_scan hs, execObjAffineDouble_scan (s := s.withMem m) hs]
    exact sameNext_next rfl

theorem drawnGfx_withMem {e : Fin 128} (hs : s.seq = .line l (.select (.gfx e))) :
    SameNext m (drawnGfx (s.withMem m)) (drawnGfx s) := by
  rw [drawnGfx_at hs, drawnGfx_at (s := s.withMem m) hs]
  exact sameNext_next rfl

/-- The object scan reads GFX (R190). -/
theorem decodeObjGfx_withMem (h : agreeUnder (lineMask q) s.mem m) {e : Fin 128}
    (hs : s.seq = .line l (.select (.gfx e))) :
    SameNext m (exec (decodeObjGfx (m.read16 .oam (8 * e.val))) (s.withMem m))
      (exec (decodeObjGfx (s.mem.read16 .oam (8 * e.val))) s) := by
  obtain ⟨_, ha⟩ := attr0_agree h e
  simp only [decodeObjGfx, ha]
  split
  · exact drawnGfx_withMem hs
  · exact drawnGfx_withMem hs
  · rw [execObjGfxWindow_at hs, execObjGfxWindow_at (s := s.withMem m) hs]
    exact sameNext_next (endEntry_withMem h l e)
  · rw [execObjGfxProhibited_at hs, execObjGfxProhibited_at (s := s.withMem m) hs]
    exact sameNext_next rfl

/-- A descriptor does not hold attr0's mosaic bit (R185). -/
theorem sizedObj_withMem (h : agreeUnder (lineMask q) s.mem m) {e : Fin 128}
    (hs : s.seq = .line l (.select (.size e))) (w ht : Nat) (key : ObjKey) (b : Bool) :
    SameNext m (sizedObj w ht { key with a0 := { key.a0 with mosaic := b } } (s.withMem m)) (sizedObj w ht key s) := by
  have ho : objDecode e { key with a0 := { key.a0 with mosaic := b } } ((s.withMem m).objAttr2 e) w ht =
      objDecode e key (s.objAttr2 e) w ht := by rw [objAttr2_withMem h]; rfl
  rw [sizedObj_at hs, sizedObj_at (s := s.withMem m) hs, ho]
  refine sameNext_next ?_
  split
  · exact endEntry_withMem (s := s.withObjs (s.objs ++ [_])) h l e
  · exact endEntry_withMem h l e

/-- The object scan reads the size and the descriptor's fields (R185, R190). -/
theorem decodeObjSize_withMem (h : agreeUnder (lineMask q) s.mem m) {e : Fin 128}
    (hs : s.seq = .line l (.select (.size e))) :
    SameNext m (exec (decodeObjSize (m.read16 .oam (8 * e.val)) (m.read16 .oam (8 * e.val + 2))) (s.withMem m))
      (exec (decodeObjSize (s.mem.read16 .oam (8 * e.val)) (s.mem.read16 .oam (8 * e.val + 2))) s) := by
  obtain ⟨b, ha⟩ := attr0_agree h e
  rw [oam_agree h (off := 8 * e.val + 2) (by omega) (by omega)]
  simp only [decodeObjSize, ha]
  split
  case h_13 =>
    rw [execObjShapeProhibited_at hs, execObjShapeProhibited_at (s := s.withMem m) hs]
    exact sameNext_next rfl
  all_goals exact sizedObj_withMem h hs _ _ ⟨_, _⟩ b

theorem textLocate_withMem (h : agreeUnder (lineMask q) s.mem m) {n : Fin 4} {c : Fin 240}
    (hs : s.seq = .line l (.draw j (.textSize n c))) (size : BitVec 2) {b b' : BgCnt} (hb : b'.sbb = b.sbb) :
    SameNext m (textLocate size b' (s.withMem m)) (textLocate size b s) := by
  obtain ⟨hx, hy⟩ := bgData_scrolls_withMem h n
  rw [textLocate_at hs, textLocate_at (s := s.withMem m) hs, hb, hx, hy]
  exact sameNext_next rfl

/-- A regular layer's column reads SIZE, SBB and the scrolls (R124, R125). -/
theorem decodeTextSize_withMem (h : agreeUnder (lineMask q) s.mem m) {n : Fin 4} {c : Fin 240}
    (hs : s.seq = .line l (.draw j (.textSize n c))) :
    SameNext m (exec (decodeTextSize (m.read16 .io (0x008 + 2 * n.val))) (s.withMem m))
      (exec (decodeTextSize (s.mem.read16 .io (0x008 + 2 * n.val))) s) := by
  obtain ⟨_, _, _, e⟩ := bgCnt_agree h n
  simp only [decodeTextSize, e]
  split <;> exact textLocate_withMem h hs _ rfl

/-- A screen entry is VRAM's (R126). -/
theorem execSeText_withMem (h : agreeUnder (lineMask q) s.mem m) {n : Fin 4} {c : Fin 240} {addr : Nat} {fx fy : Fin 8}
    (hs : s.seq = .line l (.draw j (.textEntry n c addr fx fy))) :
    SameNext m (exec (.seText (SeText.ofWord (m.read16 .vram addr))) (s.withMem m))
      (exec (.seText (SeText.ofWord (s.mem.read16 .vram addr))) s) := by
  have hw : m.read16 .vram addr = s.mem.read16 .vram addr := by simp only [Memory.read16, vram_agree h]
  rw [hw, execSeText_at hs, execSeText_at (s := s.withMem m) hs]
  exact sameNext_next rfl

/-- A regular layer's texel reaches its column the same. -/
theorem textTexel_withMem (h : agreeUnder (lineMask q) s.mem m) (l : Fin 160) (j : Nat) (n : Fin 4) (c : Fin 240)
    (idx : Byte) (col : Color15) : ((s.withMem m).plotBg n c idx col).endTextCol l j n c =
      ((s.plotBg n c idx col).endTextCol l j n c).withMem m := by
  rw [plotBg_withMem h]
  exact endTextCol_withMem (by simpa using h) l j n c

/-- A regular layer's texel reads CD, CBB, VRAM, the palette and the flags (R140, R157). -/
theorem decodeBgDepth_withMem (h : agreeUnder (lineMask q) s.mem m) {n : Fin 4} {c : Fin 240} {tile : BitVec 10}
    {bank : BitVec 4} {px py : Fin 8} (hs : s.seq = .line l (.draw j (.textDepth n c tile bank px py))) :
    SameNext m (exec (decodeBgDepth (m.read16 .io (0x008 + 2 * n.val))) (s.withMem m))
      (exec (decodeBgDepth (s.mem.read16 .io (0x008 + 2 * n.val))) s) := by
  obtain ⟨_, _, _, e⟩ := bgCnt_agree h n
  simp only [decodeBgDepth, e]
  split
  · rw [execBg4bpp_at hs, execBg4bpp_at (s := s.withMem m) hs, palette4_withMem h]
    simp only [State.bgTexel4, texel4_withMem h]
    exact sameNext_next (textTexel_withMem (by simpa using h) l j n c _ _)
  · rw [execBg8bpp_at hs, execBg8bpp_at (s := s.withMem m) hs, palette8_withMem h]
    simp only [State.bgTexel8, texel8_withMem h]
    exact sameNext_next (textTexel_withMem (by simpa using h) l j n c _ _)

theorem affLocate_withMem (h : agreeUnder (lineMask q) s.mem m) {n : AffLayer} {c : Fin 240}
    (hs : s.seq = .line l (.draw j (.affSize n c))) (size : Nat) :
    SameNext m (affLocate size (s.withMem m)) (affLocate size s) := by
  rw [affLocate_at hs, affLocate_at (s := s.withMem m) hs, affData_withMem h]
  exact sameNext_next rfl

/-- An affine layer's column reads SIZE and the coefficients (R167, R169). -/
theorem decodeAffSize_withMem (h : agreeUnder (lineMask q) s.mem m) {n : AffLayer} {c : Fin 240}
    (hs : s.seq = .line l (.draw j (.affSize n c))) :
    SameNext m (exec (decodeAffSize (m.read16 .io (0x008 + 2 * n.bg.val))) (s.withMem m))
      (exec (decodeAffSize (s.mem.read16 .io (0x008 + 2 * n.bg.val))) s) := by
  obtain ⟨_, _, _, e⟩ := bgCnt_agree h n.bg
  simp only [decodeAffSize, e]
  split <;> exact affLocate_withMem h hs _

/-- An affine layer's texel reads OVF, SBB and CBB (R170, R171, R172). -/
theorem decodeAffOverflow_withMem (h : agreeUnder (lineMask q) s.mem m) {n : AffLayer} (hq : q.overflowBg = some n.bg)
    {c : Fin 240} {size : Nat} {tx ty : Int} (hs : s.seq = .line l (.draw j (.affOverflow n c size tx ty))) :
    SameNext m (exec (decodeAffOverflow (m.read16 .io (0x008 + 2 * n.bg.val))) (s.withMem m))
      (exec (decodeAffOverflow (s.mem.read16 .io (0x008 + 2 * n.bg.val))) s) := by
  obtain ⟨_, _, ovf, e⟩ := bgCnt_agree h n.bg
  have ho : ovf = (BgCnt.ofWord (s.mem.read16 .io (0x008 + 2 * n.bg.val))).overflow :=
    ((congrArg BgCnt.overflow e).symm.trans (bgOverflow_agree h hq) :)
  simp only [decodeAffOverflow, e, ho]
  split
  · rw [execAffClip_at hs, execAffClip_at (s := s.withMem m) hs]
    refine sameNext_next ?_
    split
    · rfl
    · exact endAffCol_withMem h l j n c
  · rw [execAffWrap_at hs, execAffWrap_at (s := s.withMem m) hs]
    exact sameNext_next rfl

/-- An affine map byte is VRAM's, and its texel reads VRAM, the palette and the flags (R172, R173). -/
theorem execSeAff_withMem (h : agreeUnder (lineMask q) s.mem m) {n : AffLayer} {c : Fin 240} {addr base : Nat}
    {fx fy : Fin 8} (hs : s.seq = .line l (.draw j (.affEntry n c addr base fx fy))) :
    SameNext m (exec (.seAff (m.read8 .vram addr)) (s.withMem m)) (exec (.seAff (s.mem.read8 .vram addr)) s) := by
  rw [vram_agree h, execSeAff_at hs, execSeAff_at (s := s.withMem m) hs, palette8_withMem h]
  simp only [State.affTexel, texel8_withMem h]
  rw [plotBg_withMem (by simpa using h)]
  exact sameNext_next (endAffCol_withMem (by simpa using h) l j n c)

variable {o : ObjDesc} {ix : Nat}

theorem affineObjCol_withMem (h : agreeUnder (lineMask q) s.mem m) (bw bh : Nat) (l : Fin 160) (j : Nat) (o : ObjDesc)
    (ix : Nat) : affineObjCol bw bh (s.withMem m) l j o ix = (affineObjCol bw bh s l j o ix).withMem m := by
  unfold affineObjCol
  rw [objMatrix_withMem h]
  split
  · exact endObjCol_withMem h l j o ix
  · dsimp only
    split
    · rfl
    · exact endObjCol_withMem h l j o ix

theorem regularObjCol_withMem (h : agreeUnder (lineMask q) s.mem m) (l : Fin 160) (j : Nat) (o : ObjDesc) (ix : Nat) :
    regularObjCol (s.withMem m) l j o ix = (regularObjCol s l j o ix).withMem m := by
  unfold regularObjCol
  split
  · exact endObjCol_withMem h l j o ix
  · rfl

/-- A box column reads RM, and for an affine object its matrix (R196, R197, R200). -/
theorem decodeObjRender_draw_withMem (h : agreeUnder (lineMask q) s.mem m)
    (hs : s.seq = .line l (.draw j (.objRender o ix))) :
    SameNext m (exec (decodeObjRender (m.read16 .oam (8 * o.idx.val))) (s.withMem m))
      (exec (decodeObjRender (s.mem.read16 .oam (8 * o.idx.val))) s) := by
  obtain ⟨_, ha⟩ := attr0_agree h o.idx
  simp only [decodeObjRender, ha]
  split
  · rw [execObjRegular_draw hs, execObjRegular_draw (s := s.withMem m) hs]
    exact sameNext_next (regularObjCol_withMem h l j o ix)
  · rw [execObjAffine_draw hs, execObjAffine_draw (s := s.withMem m) hs]
    exact sameNext_next (affineObjCol_withMem h _ _ l j o ix)
  · rw [execObjHidden_draw hs, execObjHidden_draw (s := s.withMem m) hs]
    exact sameNext_next (endObj_withMem h l j)
  · rw [execObjAffineDouble_draw hs, execObjAffineDouble_draw (s := s.withMem m) hs]
    exact sameNext_next (affineObjCol_withMem h _ _ l j o ix)

variable {c : Fin 240} {tn px py : Nat}

/-- An object's pixel reads OBJMAP (R193). -/
theorem decodeObjMapping_withMem (h : agreeUnder (lineMask q) s.mem m)
    (hs : s.seq = .line l (.draw j (.objMap o ix c px py))) :
    SameNext m (exec (decodeObjMapping (m.read16 .io 0x000)) (s.withMem m))
      (exec (decodeObjMapping (s.mem.read16 .io 0x000)) s) := by
  obtain ⟨_, _, _, e⟩ := dispCnt_agree h
  simp only [decodeObjMapping, e]
  split
  · rw [execObjMap2D_at hs, execObjMap2D_at (s := s.withMem m) hs]
    exact sameNext_next rfl
  · rw [execObjMap1D_at hs, execObjMap1D_at (s := s.withMem m) hs]
    exact sameNext_next rfl

/-- An object's texel reaches its column the same. -/
theorem objTexel_withMem (h : agreeUnder (lineMask q) s.mem m) (l : Fin 160) (j : Nat) (o : ObjDesc) (ix : Nat)
    (c : Fin 240) (idx : Byte) (col : Color15) : ((s.withMem m).plotObj c idx col).endObjCol l j o ix =
      ((s.plotObj c idx col).endObjCol l j o ix).withMem m := by
  rw [plotObj_withMem h]
  exact endObjCol_withMem (by simpa using h) l j o ix

/-- An object's texel reads CM, VRAM, the palette and the flags (R158, R195, R201). -/
theorem decodeObjDepth_withMem (h : agreeUnder (lineMask q) s.mem m)
    (hs : s.seq = .line l (.draw j (.objDepth o ix c tn px py))) :
    SameNext m (exec (decodeObjDepth (m.read16 .oam (8 * o.idx.val))) (s.withMem m))
      (exec (decodeObjDepth (s.mem.read16 .oam (8 * o.idx.val))) s) := by
  obtain ⟨_, ha⟩ := attr0_agree h o.idx
  simp only [decodeObjDepth, ha]
  split
  · rw [execObj4bpp_at hs, execObj4bpp_at (s := s.withMem m) hs, palette4_withMem h]
    simp only [State.objTexel4, texel4_withMem h]
    exact sameNext_next (objTexel_withMem h l j o ix c _ _)
  · rw [execObj8bpp_at hs, execObj8bpp_at (s := s.withMem m) hs, palette8_withMem h]
    simp only [State.objTexel8, texel8_withMem h]
    exact sameNext_next (objTexel_withMem h l j o ix c _ _)

theorem composeCol_withMem (hs : s.seq = .line l (.compose c)) (m : Memory) (f : Pixel → Color15) :
    SameNext m (composeCol f (s.withMem m)) (composeCol f s) := by
  rw [composeCol_at hs, composeCol_at (s := s.withMem m) hs]
  exact sameNext_next (endCompose_withMem (s.frameWrite l c _) m l c)

/-- A composed column reads MODE, the backdrop and its flags, and the coefficients (R240, R241, R248). -/
theorem decodeBlendMode_withMem (h : agreeUnder (lineMask q) s.mem m) (hs : s.seq = .line l (.compose c)) :
    SameNext m (exec (decodeBlendMode (m.read16 .io 0x050)) (s.withMem m))
      (exec (decodeBlendMode (s.mem.read16 .io 0x050)) s) := by
  obtain ⟨_, e⟩ := bldCnt_agree h
  obtain ⟨ha, hb, hy⟩ := coefficients_withMem h
  have hd := backdrop_withMem h
  simp only [decodeBlendMode, e]
  split <;> simp only [exec, execBlendOff, execBlendAlpha, execBlendWhite, execBlendBlack, ha, hb, hy, hd] <;>
    exact composeCol_withMem hs m _

/-! ### The step, with the regions exchanged -/

/-- The two steps of a place, by their instructions. -/
theorem step_sameNext {i i' : Instr} (hi : step s = exec i s) (hi' : step (s.withMem m) = exec i' (s.withMem m))
    (h : SameNext m (exec i' (s.withMem m)) (exec i s)) : SameNext m (step (s.withMem m)) (step s) := by
  rw [hi, hi']
  exact h

/-- Whether a hook write is due does not depend on the regions (R70). -/
theorem hookDue_withMem {ph : Phase} (h : s.hookDue l ph = none) (m : Memory) : (s.withMem m).hookDue l ph = none := by
  cases hd : (s.withMem m).hookDue l ph with
  | none => rfl
  | some due =>
    obtain ⟨rfl, hon, l', rest, hhost, hl, -⟩ := hookDue_some hd
    rw [State.withMem_host] at hhost
    rw [State.withMem_cfg] at hon
    simp only [State.hookDue, hhost, hon, hl, and_self, if_true] at h
    cases h

/-- A place beyond its region stops both steps. -/
theorem step_sameNext_of_no_fetch {ph : Phase} (hs : s.seq = .line l ph) (hd : s.hookDue l ph = none)
    (hf : s.fetch (fetchPlace ph) = none) (hf' : (s.withMem m).fetch (fetchPlace ph) = none) :
    SameNext m (step (s.withMem m)) (step s) := by
  rw [step_of_no_fetch hs hd hf, step_of_no_fetch (s := s.withMem m) hs (hookDue_withMem hd m) hf']
  rfl

/-- A step of a line reads nothing outside `lineMask`. -/
theorem step_withMem_line {ph : Phase} (hs : s.seq = .line l ph) (hd : s.hookDue l ph = none)
    (h : agreeUnder (lineMask s.seq) s.mem m) : SameNext m (step (s.withMem m)) (step s) := by
  have hr := stepReadsEachSelectorFromItsWord s l ph hs hd
  have hr' := stepReadsEachSelectorFromItsWord (s.withMem m) l ph hs (hookDue_withMem hd m)
  rcases ph with (_ | e | e | e) | ⟨j, p⟩ | c
  · exact step_sameNext hr hr' (decodeBgMode_withMem h hs)
  · exact step_sameNext hr hr' (decodeObjRender_scan_withMem h hs)
  · exact step_sameNext hr hr' (decodeObjGfx_withMem h hs)
  · exact step_sameNext hr hr' (decodeObjSize_withMem h hs)
  · cases p with
    | textSize => exact step_sameNext hr hr' (decodeTextSize_withMem h hs)
    | textEntry n c addr =>
      by_cases ha : addr + 2 ≤ 0x18000
      · exact step_sameNext (hr ha) (hr' ha) (execSeText_withMem h hs)
      · exact step_sameNext_of_no_fetch hs hd (if_neg ha) (if_neg ha)
    | textDepth => exact step_sameNext hr hr' (decodeBgDepth_withMem h hs)
    | affSize => exact step_sameNext hr hr' (decodeAffSize_withMem h hs)
    | affOverflow => exact step_sameNext hr hr' (decodeAffOverflow_withMem h (by rw [hs]; rfl) hs)
    | affEntry n c addr =>
      by_cases ha : addr + 1 ≤ 0x18000
      · exact step_sameNext (hr ha) (hr' ha) (execSeAff_withMem h hs)
      · exact step_sameNext_of_no_fetch hs hd (if_neg ha) (if_neg ha)
    | objRender => exact step_sameNext hr hr' (decodeObjRender_draw_withMem h hs)
    | objMap => exact step_sameNext hr hr' (decodeObjMapping_withMem h hs)
    | objDepth => exact step_sameNext hr hr' (decodeObjDepth_withMem h hs)
  · exact step_sameNext hr hr' (decodeBlendMode_withMem h hs)

end WithMem

/-! ### RENDER, with the regions exchanged -/

/-- A reference point reads its L word and the low twelve bits of its H word (R27, R166). -/
theorem refPoint_agree {m m' : Memory} (h : agreeUnder requestMask m m') {off : Nat} (h0 : 0x028 ≤ off)
    (h1 : off < 0x03F) (h8 : 8 ≤ off % 16) (h4 : off % 4 = 0) :
    refPoint (m'.read16 .io (off + 2)) (m'.read16 .io off) = refPoint (m.read16 .io (off + 2)) (m.read16 .io off) := by
  have hl : m'.read16 .io off = m.read16 .io off := by
    refine eq_of_and_full (read16_agree h .io off (k := half 0xFF 0xFF) ?_)
    simp only [requestMask]
    congr 1
    · rw [if_pos (by omega), if_neg (by omega)]
    · rw [if_pos (by omega), if_neg (by omega)]
  have hh : (m'.read16 .io (off + 2)).extractLsb' 0 12 = (m.read16 .io (off + 2)).extractLsb' 0 12 := by
    refine extract_of_and (k := half 0xFF 0x0F) (read16_agree h .io (off + 2) ?_) 0 12 (by decide)
    simp only [requestMask]
    congr 1
    · rw [if_pos (by omega), if_neg (by omega)]
    · rw [if_pos (by omega), if_pos (by omega)]
  rw [refPoint, refPoint, hl, hh]

/-- The start of a frame reads the reference points only. -/
theorem startFrame_withMem {s : State} {m : Memory} (h : agreeUnder requestMask s.mem m) :
    (s.withMem m).startFrame = s.startFrame.withMem m := by
  have hx2 := refPoint_agree h (off := 0x028) (by decide) (by decide) (by decide) (by decide)
  have hy2 := refPoint_agree h (off := 0x02C) (by decide) (by decide) (by decide) (by decide)
  have hx3 := refPoint_agree h (off := 0x038) (by decide) (by decide) (by decide) (by decide)
  have hy3 := refPoint_agree h (off := 0x03C) (by decide) (by decide) (by decide) (by decide)
  simp only [State.startFrame, State.latchRef, State.withMem_mem]
  rw [hx2, hy2, hx3, hy3]
  rfl

/-- RENDER reads nothing outside `requestMask`. -/
theorem execRender_withMem {s : State} {m : Memory} (h : agreeUnder requestMask s.mem m) :
    SameNext m (execRender (s.withMem m)) (execRender s) := by
  simp only [execRender, State.withMem_seq, State.withMem_fault]
  split
  · exact sameNext_next (startFrame_withMem h)
  · exact sameNext_next (startFrame_withMem h)
  · rfl
  · rfl

/-- Settles O54: a step of a line, and RENDER, read only the bits of their masks. -/
theorem unreadRegistersHaveNoEffect : Obligations.UnreadRegistersHaveNoEffect := by
  refine ⟨fun s m hs hn h => ?_, fun s m rest hs hh h => ?_⟩
  · obtain ⟨l, ph, hs⟩ := hs
    exact step_withMem_line hs (hn l ph hs) h
  · rw [step_of_render hs hh, step_of_render (s := s.withMem m) hs hh]
    exact execRender_withMem (s := s.withHost rest) h

end Sys2Proof.Machine
end

section
/-! SUPPORT. Which texel reads leave VRAM (R66, R140). -/

namespace Sys2Proof.Machine

open Sys2Proof.Config

/-- A 4bpp texel inside VRAM changes nothing (R65). -/
theorem texel4_state_of_in_vram {s : State} {sp : Space} {rowoff px : Nat}
    (h : sp.addr (rowoff + px / 2) < Region.size .vram) : (s.texel4 sp rowoff px).2 = s := by
  simp only [State.texel4, vramByte_in h]

/-- An 8bpp texel inside VRAM changes nothing (R65). -/
theorem texel8_state_of_in_vram {s : State} {sp : Space} {rowoff px : Nat}
    (h : sp.addr (rowoff + px) < Region.size .vram) : (s.texel8 sp rowoff px).2 = s := by
  simp only [State.texel8, vramByte_in h]

/-- The byte of an 8bpp background texel is beyond VRAM exactly in the upper quarter of the tiles of character base 3
(R66, R140). -/
theorem bgTexel8_beyond_vram_iff (cbb : BitVec 2) (tile : BitVec 10) (px py : Fin 8) :
    Region.size .vram ≤ Space.bg.addr (charBase cbb + tile.toNat * 64 + py.val * 8 + px.val) ↔
      cbb = 3 ∧ 768 ≤ tile.toNat := by
  have hc : cbb = 3 ↔ cbb.toNat = 3 := by rw [← BitVec.toNat_inj]; rfl
  simp only [Space.addr, charBase, Region.size, hc]
  omega

/-- Settles O22: the largest offset of each kind of texel read against the size of VRAM. -/
theorem onlyEightBitBackgroundsReadOutsideVram : Obligations.OnlyEightBitBackgroundsReadOutsideVram := by
  intro s cbb px py
  refine ⟨fun tile => texel4_state_of_in_vram ?_, fun tile => texel8_state_of_in_vram ?_,
    fun tn x y => ⟨objTexel4_state s tn x y, objTexel8_state s tn x y⟩, fun tile h => texel8_state_of_in_vram ?_,
    fun tile h => vramByte_out ((bgTexel8_beyond_vram_iff cbb tile px py).2 h)⟩
  · simp only [Space.addr, charBase, Region.size]
    omega
  · simp only [Space.addr, Region.size]
    omega
  · rwa [← bgTexel8_beyond_vram_iff cbb tile px py, Nat.not_le] at h

end Sys2Proof.Machine
end

section
/-! SUPPORT. The sink is only written (R42): every instruction but a blend mode does the same whatever the sink holds
(`exec_withSink`), and fetching does not read it. -/

namespace Sys2Proof.Machine

open Sys2Proof.Config

/-! ### The operations of a line, with the sink exchanged -/

theorem pickDraw_withSink (s : State) (k : Sink) (ls : List Layer) : pickDraw (s.withSink k) ls = pickDraw s ls := by
  induction ls with
  | nil => rfl
  | cons a rest ih =>
    simp only [pickDraw, State.withSink_objs, State.withSink_k, ih]
    rfl

@[simp] theorem startDraw_withSink (s : State) (k : Sink) (l : Fin 160) (j : Nat) :
    (s.withSink k).startDraw l j = (s.startDraw l j).withSink k := by
  simp only [State.startDraw, State.withSink_layers, pickDraw_withSink]
  rfl

@[simp] theorem endLayer_withSink (s : State) (k : Sink) (l : Fin 160) (j : Nat) :
    (s.withSink k).endLayer l j = (s.endLayer l j).withSink k :=
  startDraw_withSink (s.withLayers s.layers.tail) k l (j + 1)

@[simp] theorem endObj_withSink (s : State) (k : Sink) (l : Fin 160) (j : Nat) :
    (s.withSink k).endObj l j = (s.endObj l j).withSink k :=
  startDraw_withSink (s.withCursor (s.k + 1)) k l (j + 1)

@[simp] theorem endTextCol_withSink (s : State) (k : Sink) (l : Fin 160) (j : Nat) (n : Fin 4) (c : Fin 240) :
    (s.withSink k).endTextCol l j n c = (s.endTextCol l j n c).withSink k := by
  unfold State.endTextCol
  cases nextCol c with
  | some c' => rfl
  | none => exact endLayer_withSink s k l j

@[simp] theorem endAffCol_withSink (s : State) (k : Sink) (l : Fin 160) (j : Nat) (n : AffLayer) (c : Fin 240) :
    (s.withSink k).endAffCol l j n c = (s.endAffCol l j n c).withSink k := by
  unfold State.endAffCol
  cases nextCol c with
  | some c' => rfl
  | none => exact endLayer_withSink s k l j

@[simp] theorem endObjCol_withSink (s : State) (k : Sink) (l : Fin 160) (j : Nat) (o : ObjDesc) (ix : Nat) :
    (s.withSink k).endObjCol l j o ix = (s.endObjCol l j o ix).withSink k := by
  unfold State.endObjCol
  split
  · rfl
  · exact endObj_withSink s k l j

@[simp] theorem endEntry_withSink (s : State) (k : Sink) (l : Fin 160) (e : Fin 128) :
    (s.withSink k).endEntry l e = (s.endEntry l e).withSink k := by
  unfold State.endEntry
  cases nextObj e with
  | some e' => rfl
  | none => exact startDraw_withSink ((s.withObjs (sortBy objBefore s.objs)).withCursor 0) k l 0

@[simp] theorem endCompose_withSink (s : State) (k : Sink) (l : Fin 160) (c : Fin 240) :
    (s.withSink k).endCompose l c = (s.endCompose l c).withSink k := by
  unfold State.endCompose
  cases nextCol c with
  | some c' => rfl
  | none => cases nextLine l <;> rfl

/-- A byte of VRAM does not depend on the sink, and reading it leaves the sink alone. -/
theorem vramByte_withSink (s : State) (k : Sink) (off : Nat) :
    (s.withSink k).vramByte off = ((s.vramByte off).1, (s.vramByte off).2.withSink k) := by
  unfold State.vramByte
  split <;> rfl

theorem plotIndex_withSink (s : State) (k : Sink) (c : Fin 240) (idx : Byte) (col : Color15) (top bot : Bool) :
    (s.withSink k).plotIndex c idx col top bot = (s.plotIndex c idx col top bot).withSink k := by
  unfold State.plotIndex
  split <;> rfl

@[simp] theorem plotBg_withSink (s : State) (k : Sink) (n : Fin 4) (c : Fin 240) (idx : Byte) (col : Color15) :
    (s.withSink k).plotBg n c idx col = (s.plotBg n c idx col).withSink k := plotIndex_withSink ..

@[simp] theorem plotObj_withSink (s : State) (k : Sink) (c : Fin 240) (idx : Byte) (col : Color15) :
    (s.withSink k).plotObj c idx col = (s.plotObj c idx col).withSink k := plotIndex_withSink ..

theorem objMatrix_withSink (s : State) (k : Sink) (m : BitVec 5) : (s.withSink k).objMatrix m = s.objMatrix m := rfl

@[simp] theorem affineObjCol_withSink (bw bh : Nat) (s : State) (k : Sink) (l : Fin 160) (j : Nat) (o : ObjDesc)
    (ix : Nat) : affineObjCol bw bh (s.withSink k) l j o ix = (affineObjCol bw bh s l j o ix).withSink k := by
  simp only [affineObjCol, objMatrix_withSink, endObjCol_withSink]
  split
  · rfl
  · split <;> rfl

@[simp] theorem regularObjCol_withSink (s : State) (k : Sink) (l : Fin 160) (j : Nat) (o : ObjDesc) (ix : Nat) :
    regularObjCol (s.withSink k) l j o ix = (regularObjCol s l j o ix).withSink k := by
  unfold regularObjCol
  split
  · exact endObjCol_withSink s k l j o ix
  · rfl

/-! ### The instructions, with the sink exchanged -/

/-- A meaning does the same whatever the sink holds. -/
def SinkFree (f : State → Result) : Prop := ∀ s k, f (s.withSink k) = mapNext (fun t => t.withSink k) (f s)

theorem startM01_sinkFree (lay : List Layer) (d : DispCnt) : SinkFree (startM01 lay d) := by
  intro s k
  simp only [startM01, State.withSink_seq]
  split
  · split
    · rfl
    · exact congrArg Host.Outcome.next (startDraw_withSink (s.startLine.withLayers _) k _ 0)
  · rfl

theorem execMode2_sinkFree (d : DispCnt) : SinkFree (execMode2 d) := by
  intro s k
  simp only [execMode2, State.withSink_seq]
  split
  · exact congrArg Host.Outcome.next (startDraw_withSink (s.startLine.withLayers _) k _ 0)
  · rfl

theorem sizedObj_sinkFree (w h : Nat) (key : ObjKey) : SinkFree (sizedObj w h key) := by
  intro s k
  have ha (e : Fin 128) : (s.withSink k).objAttr2 e = s.objAttr2 e := rfl
  simp only [sizedObj, State.withSink_seq, ha]
  split
  · split
    · exact congrArg Host.Outcome.next (endEntry_withSink (s.withObjs _) k _ _)
    · exact congrArg Host.Outcome.next (endEntry_withSink s k _ _)
  · rfl

/-- Only the blend modes use the sink (R42, R248). -/
theorem exec_sinkFree {i : Instr} (hi : i.selector ≠ .blendMode) : SinkFree (exec i) := by
  cases i
  case mode0 d | mode1 d => exact startM01_sinkFree _ d
  case mode2 d => exact execMode2_sinkFree d
  case objSize8x8 k | objSize16x16 k | objSize32x32 k | objSize64x64 k | objSize16x8 k | objSize32x8 k
      | objSize32x16 k | objSize64x32 k | objSize8x16 k | objSize8x32 k | objSize16x32 k | objSize32x64 k =>
    exact sizedObj_sinkFree _ _ k
  case blendOff | blendAlpha | blendWhite | blendBlack => exact absurd rfl hi
  case render =>
    intro s k
    simp only [exec, execRender, State.withSink_seq, State.withSink_fault]
    split <;> rfl
  case affClip b =>
    intro s k
    simp only [exec, execAffClip, State.withSink_seq, endAffCol_withSink]
    split
    · split <;> rfl
    · rfl
  all_goals
    intro s k
    simp only [exec, execMode3, execMode4, execMode5, execMode6, execMode7, badMode, execText32x32, execText64x32,
      execText32x64, execText64x64, textLocate, execAff128, execAff256, execAff512, execAff1024, affLocate,
      execObjGfxNormal, execObjGfxSemitrans, drawnGfx, execObjMap2D, execObjMap1D, execBg4bpp, execBg8bpp,
      execAffWrap, execSeText, execSeAff, execObjRegular, execObjAffine, execObjHidden, execObjAffineDouble,
      execObjGfxWindow, execObjGfxProhibited, execObj4bpp, execObj8bpp, execObjShapeProhibited, State.bgTexel4,
      State.bgTexel8, State.affTexel, State.objTexel4, State.objTexel8, State.texel4, State.texel8, vramByte_withSink,
      plotBg_withSink, plotObj_withSink, endTextCol_withSink, endAffCol_withSink, endObjCol_withSink, endObj_withSink,
      endEntry_withSink, affineObjCol_withSink, regularObjCol_withSink, State.withSink_seq]
    split <;> rfl

end Sys2Proof.Machine
end

section
/-! SUPPORT. The work left in a line (R222): from a position a line can go on from, a step runs an instruction of its
place, and before COMPOSE that instruction leaves less work. -/

namespace Sys2Proof.Machine

open Sys2Proof.Config

/-! ### Decoding a whole word -/

/-- A word of two bytes is decoded, as a value of the selector its meanings have. -/
theorem decodeHalf_of_two_le {sel : Selector} {f : Half → Instr} (hf : ∀ w, (f w).selector = sel)
    {bytes : List Byte} (h : 2 ≤ bytes.length) :
    ∃ i rest, decodeHalf sel f bytes = .ok (i, rest) ∧ i.selector = sel := by
  match bytes, h with
  | lo :: hi :: rest, _ => exact ⟨f (half lo hi), rest, rfl, hf _⟩

/-- A whole word is decoded, as a value of the selector asked for (R99). -/
theorem decode_of_width_le {sel : Selector} {bytes : List Byte} (h : sel.width ≤ bytes.length) :
    ∃ i rest, decode sel bytes = .ok (i, rest) ∧ i.selector = sel := by
  cases sel
  case seAff =>
    match bytes, h with
    | b :: rest, _ => exact ⟨.seAff b, rest, rfl, rfl⟩
  case objSize =>
    match bytes, h with
    | b0 :: b1 :: b2 :: b3 :: rest, _ =>
      refine ⟨_, rest, rfl, ?_⟩
      simp only [decodeObjSize]
      split <;> rfl
  case request => exact ⟨.render, bytes, rfl, rfl⟩
  case seText => exact decodeHalf_of_two_le (f := fun w => .seText (SeText.ofWord w)) (fun _ => rfl) h
  all_goals
    refine decodeHalf_of_two_le (fun w => ?_) h
    simp only [decodeBgMode, decodeObjMapping, decodeBgDepth, decodeTextSize, decodeAffSize, decodeAffOverflow,
      decodeObjRender, decodeObjGfx, decodeObjDepth, decodeBlendMode]
    split <;> rfl

theorem bytes_length (m : Memory) (r : Region) : ∀ n off, (m.bytes r off n).length = n
  | 0, _ => rfl
  | n + 1, off => congrArg (· + 1) (bytes_length m r n (off + 1))

/-! ### A request under way -/

/-- A draw position stands on the layer or object the line is drawing, with its address in VRAM; the other phases ask
nothing. It is the part of `Phase.ok` that a line needs to go on and to end. -/
def Phase.drawOk (s : State) : Phase → Prop
  | .draw _ p => p.ok s
  | .select _ | .compose _ => True

/-- The word of a position is in its region. -/
theorem fetchPlace_in_region_of_drawOk {s : State} {ph : Phase} (h : ph.drawOk s) :
    (fetchPlace ph).off + (fetchPlace ph).sel.width ≤ (fetchPlace ph).region.size := by
  rcases ph with (_ | e | e | e) | ⟨j, p⟩ | c
  case draw =>
    cases p
    case textEntry | affEntry => exact h.2
    all_goals exact fetchPlace_in_region nofun
  all_goals exact fetchPlace_in_region nofun

/-- Whether a hook write is due, and which, does not depend on the sink (R70). -/
theorem hookDue_withSink (s : State) (k : Sink) (l : Fin 160) (ph : Phase) :
    (s.withSink k).hookDue l ph = (s.hookDue l ph).map fun due => (due.1, due.2.withSink k) := by
  simp only [State.hookDue, State.withSink_host, State.withSink_cfg]
  split
  · rw [apply_ite (Option.map _)]
    rfl
  · rfl

/-- With no hook write due, a step of a line runs an instruction of its place, and the same one with any other sink. -/
theorem step_runs_instr {s : State} {l : Fin 160} {ph : Phase} (hs : s.seq = .line l ph)
    (hd : s.hookDue l ph = none) (hp : ph.drawOk s) :
    ∃ i, (fetchPlace ph).sel = i.selector ∧ step s = exec i s ∧
      ∀ k, step (s.withSink k) = exec i (s.withSink k) := by
  have hf := fetch_in_region s (fetchPlace_in_region_of_drawOk hp)
  obtain ⟨i, rest, hi, hsel⟩ := decode_of_width_le
    (sel := (fetchPlace ph).sel) (bytes_length s.mem (fetchPlace ph).region _ (fetchPlace ph).off).ge
  refine ⟨i, hsel.symm, step_of_decode hs hd hf hi, fun k => step_of_decode (s := s.withSink k) hs ?_ hf hi⟩
  rw [hookDue_withSink, hd]
  rfl

/-! ### The work left in a line -/

/-- Four counters, the first the most significant. -/
def rank (a b c d : Nat) : Nat ×ₗ Nat ×ₗ Nat ×ₗ Nat := toLex (a, toLex (b, toLex (c, d)))

theorem rank_lt {a b c d a' b' c' d' : Nat} :
    rank a b c d < rank a' b' c' d' ↔
      a < a' ∨ a = a' ∧ (b < b' ∨ b = b' ∧ (c < c' ∨ c = c' ∧ d < d')) := by
  simp only [rank, Prod.Lex.toLex_lt_toLex]

theorem rank_lt_first {a b c d a' b' c' d' : Nat} (h : a < a') : rank a b c d < rank a' b' c' d' :=
  rank_lt.2 (.inl h)

theorem rank_lt_second {a b c d b' c' d' : Nat} (h : b < b') : rank a b c d < rank a b' c' d' :=
  rank_lt.2 (.inr ⟨rfl, .inl h⟩)

theorem rank_lt_third {a b c d c' d' : Nat} (h : c < c') : rank a b c d < rank a b c' d' :=
  rank_lt.2 (.inr ⟨rfl, .inr ⟨rfl, .inl h⟩⟩)

theorem rank_lt_fourth {a b c d d' : Nat} (h : d < d') : rank a b c d < rank a b c d' :=
  rank_lt.2 (.inr ⟨rfl, .inr ⟨rfl, .inr ⟨rfl, h⟩⟩⟩)

/-- The columns left of the layer or the object being drawn. -/
def DrawPos.colsLeft : DrawPos → Nat
  | .textSize _ c | .textEntry _ c _ _ _ | .textDepth _ c _ _ _ _ => 239 - c.val
  | .affSize _ c | .affOverflow _ c _ _ _ | .affEntry _ c _ _ _ _ => 239 - c.val
  | .objRender o ix | .objMap o ix _ _ _ | .objDepth o ix _ _ _ _ => o.bw - ix

/-- The selectors of the column left after the next one (R127, R174, R196). -/
def DrawPos.selectorsLeft : DrawPos → Nat
  | .textSize .. | .affSize .. | .objRender .. => 2
  | .textEntry .. | .affOverflow .. | .objMap .. => 1
  | .textDepth .. | .affEntry .. | .objDepth .. => 0

/-- The layers and the objects not yet drawn (R221). -/
def State.drawsLeft (s : State) : Nat := s.layers.length + (s.objs.length - s.k)

/-- The work left in a line at a position: the phases after it, then the loops of its phase from the outermost in
(R222). -/
def Phase.work (s : State) : Phase → Nat ×ₗ Nat ×ₗ Nat ×ₗ Nat
  | .select .mode => rank 3 0 0 0
  | .select (.render e) => rank 2 (127 - e.val) 2 0
  | .select (.gfx e) => rank 2 (127 - e.val) 1 0
  | .select (.size e) => rank 2 (127 - e.val) 0 0
  | .draw _ p => rank 1 s.drawsLeft p.colsLeft p.selectorsLeft
  | .compose c => rank 0 (239 - c.val) 0 0

/-- The columns of the line a position has composed (R248). -/
def Phase.composed : Phase → Nat
  | .compose c => c.val
  | .select _ | .draw _ _ => 0

/-- A state of line `l` with nothing composed, at a position it can go on from with less work left than `w`. -/
def State.Before (s : State) (l : Fin 160) (w : Nat ×ₗ Nat ×ₗ Nat ×ₗ Nat) : Prop :=
  ∃ ph : Phase, s.seq = .line l ph ∧ ph.drawOk s ∧ ph.work s < w ∧ ph.composed = 0

section Before

variable {s : State} {l : Fin 160} {j : Nat} {w : Nat ×ₗ Nat ×ₗ Nat ×ₗ Nat}

theorem goto_select_before {p : ScanPos} (h : Phase.work s (.select p) < w) :
    (s.goto (.line l (.select p))).Before l w := by
  refine ⟨_, rfl, trivial, ?_, rfl⟩
  cases p <;> exact h

theorem goto_draw_before {p : DrawPos} (hp : p.ok s) (h : rank 1 s.drawsLeft p.colsLeft p.selectorsLeft < w) :
    (s.goto (.line l (.draw j p))).Before l w :=
  ⟨_, rfl, Phase.ok_goto (ph := .draw j p) _ hp, h, rfl⟩

/-- A draw step has no more draws left than the state it starts in, whichever it is (R221). -/
theorem startDraw_before (l : Fin 160) (j : Nat) (h : ∀ d ≤ s.drawsLeft, ∀ a b, rank 1 d a b < w) :
    (s.startDraw l j).Before l w := by
  have hlen := (startDraw_layers s l j).length_le
  unfold State.startDraw at hlen ⊢
  obtain ⟨-, ⟨a, rest, hp, -⟩ | ⟨o, rest, hp, ho⟩ | ⟨hp, -⟩⟩ := pickDraw_cases s s.layers <;> rw [hp] at hlen ⊢
  · have hd : (s.withLayers (a :: rest)).drawsLeft ≤ s.drawsLeft := Nat.add_le_add_right hlen _
    cases a <;> exact goto_draw_before rfl (h _ hd _ _)
  · have hd : (s.withLayers rest).drawsLeft ≤ s.drawsLeft := Nat.add_le_add_right hlen _
    exact goto_draw_before ho (h _ hd _ _)
  · exact ⟨_, rfl, trivial, lt_trans (rank_lt_first Nat.one_pos) (h 0 (Nat.zero_le _) 0 0), rfl⟩

theorem endEntry_before (l : Fin 160) (e : Fin 128) (n : Nat) :
    (s.endEntry l e).Before l (rank 2 (127 - e.val) n 0) := by
  obtain ⟨e', he, eq⟩ | ⟨-, eq⟩ := endEntry_cases s l e <;> rw [eq]
  · exact goto_select_before (rank_lt_second (by omega))
  · exact startDraw_before _ _ fun d _ a b => rank_lt_first (by decide)

theorem endLayer_before (l : Fin 160) (j : Nat) {a : Layer} (hl : s.layers.head? = some a) (m n : Nat) :
    (s.endLayer l j).Before l (rank 1 s.drawsLeft m n) := by
  obtain ⟨rest, hr⟩ := List.head?_eq_some_iff.1 hl
  refine startDraw_before _ _ fun d hd a b => rank_lt_second ?_
  have : (s.withLayers s.layers.tail).drawsLeft < s.drawsLeft := by simp [State.drawsLeft, hr]
  omega

theorem endObj_before (l : Fin 160) (j : Nat) {o : ObjDesc} (ho : s.objs[s.k]? = some o) (m n : Nat) :
    (s.endObj l j).Before l (rank 1 s.drawsLeft m n) := by
  obtain ⟨hk, -⟩ := List.getElem?_eq_some_iff.1 ho
  refine startDraw_before _ _ fun d hd a b => rank_lt_second ?_
  have : (s.withCursor (s.k + 1)).drawsLeft < s.drawsLeft := by
    simp only [State.drawsLeft, State.withCursor_layers, State.withCursor_objs, State.withCursor_k]
    omega
  omega

theorem endTextCol_before (l : Fin 160) (j : Nat) {n : Fin 4} (hl : s.layers.head? = some (.text n)) (c : Fin 240)
    (m : Nat) : (s.endTextCol l j n c).Before l (rank 1 s.drawsLeft (239 - c.val) m) := by
  obtain ⟨c', hc, e⟩ | ⟨-, e⟩ := endTextCol_cases s l j n c <;> rw [e]
  · exact goto_draw_before hl (rank_lt_third (by simp only [DrawPos.colsLeft]; omega))
  · exact endLayer_before l j hl _ _

theorem endAffCol_before (l : Fin 160) (j : Nat) {n : AffLayer} (hl : s.layers.head? = some (.affine n)) (c : Fin 240)
    (m : Nat) : (s.endAffCol l j n c).Before l (rank 1 s.drawsLeft (239 - c.val) m) := by
  obtain ⟨c', hc, e⟩ | ⟨-, e⟩ := endAffCol_cases s l j n c <;> rw [e]
  · exact goto_draw_before hl (rank_lt_third (by simp only [DrawPos.colsLeft]; omega))
  · exact endLayer_before l j hl _ _

theorem endObjCol_before (l : Fin 160) (j : Nat) {o : ObjDesc} (ho : s.objs[s.k]? = some o) (ix m : Nat) :
    (s.endObjCol l j o ix).Before l (rank 1 s.drawsLeft (o.bw - ix) m) := by
  obtain ⟨hix, e⟩ | ⟨-, e⟩ := endObjCol_cases s l j o ix <;> rw [e]
  · exact goto_draw_before ho (rank_lt_third (by simp only [DrawPos.colsLeft]; omega))
  · exact endObj_before l j ho _ _

/-- At the mode dispatch and in the object scan, a move raises a reason or leaves less work (R190, R219). -/
theorem LineMove.select_before {s t : State} {l : Fin 160} {i : Instr} {p : ScanPos}
    (hm : LineMove s l i (.select p) t) :
    t.seq = .fault ∧ t.fault.isSome = true ∨ t.Before l (Phase.work s (.select p)) := by
  cases hm with
  | badMode | badObjMode | badObjShape => exact .inl ⟨rfl, rfl⟩
  | toScan => exact .inr (goto_select_before (rank_lt_first (by decide)))
  | toDraw => exact .inr (startDraw_before _ _ fun _ _ _ _ => rank_lt_first (by decide))
  | toGfx | toSize => exact .inr (goto_select_before (rank_lt_third (by decide)))
  | take e => exact .inr (endEntry_before l e _)
  | skip he =>
    cases p <;> cases he
    all_goals exact .inr (endEntry_before l _ _)

/-- A screen entry of a wrapped map pixel is in VRAM (R124, R125). -/
theorem seAddr_wrapped_in_vram (sbb : BitVec 5) (size : BitVec 2) (x y : Nat) :
    seAddr sbb size (x % (8 * textWt size) / 8) (y % (8 * textHt size) / 8) + 2 ≤ Region.size .vram := by
  have hW : 0 < textWt size := by unfold textWt; split <;> omega
  have hH : 0 < textHt size := by unfold textHt; split <;> omega
  exact seAddr_in_vram _ (Nat.div_lt_of_lt_mul (Nat.mod_lt _ (by omega)))
    (Nat.div_lt_of_lt_mul (Nat.mod_lt _ (by omega)))

theorem regularObjCol_before (l : Fin 160) (j : Nat) {o : ObjDesc} (ho : s.objs[s.k]? = some o) (ix : Nat) :
    (regularObjCol s l j o ix).Before l (rank 1 s.drawsLeft (o.bw - ix) 2) := by
  obtain h | ⟨c, -, h⟩ := regularObjCol_cases s l j o ix <;> rw [h]
  · exact endObjCol_before l j ho ix 2
  · exact goto_draw_before ho (rank_lt_fourth Nat.one_lt_two)

theorem affineObjCol_before (l : Fin 160) (j : Nat) {o : ObjDesc} (ho : s.objs[s.k]? = some o) (ix bw bh : Nat) :
    (affineObjCol bw bh s l j o ix).Before l (rank 1 s.drawsLeft (o.bw - ix) 2) := by
  obtain h | ⟨c, px, py, -, h⟩ := affineObjCol_cases bw bh s l j o ix <;> rw [h]
  · exact endObjCol_before l j ho ix 2
  · exact goto_draw_before ho (rank_lt_fourth Nat.one_lt_two)

theorem textTexel_before (l : Fin 160) (j : Nat) {n : Fin 4} (hl : s.layers.head? = some (.text n)) (c : Fin 240)
    (off : Nat) (idx : Byte) (col : Color15) :
    (((s.vramByte off).2.plotBg n c idx col).endTextCol l j n c).Before l (rank 1 s.drawsLeft (239 - c.val) 0) := by
  have h := endTextCol_before (s := (s.vramByte off).2.plotBg n c idx col) l j (n := n) (by simpa using hl) c 0
  simpa [State.drawsLeft] using h

theorem affTexel_before (l : Fin 160) (j : Nat) {n : AffLayer} (hl : s.layers.head? = some (.affine n)) (c : Fin 240)
    (off : Nat) (idx : Byte) (col : Color15) :
    (((s.vramByte off).2.plotBg n.bg c idx col).endAffCol l j n c).Before l
      (rank 1 s.drawsLeft (239 - c.val) 0) := by
  have h := endAffCol_before (s := (s.vramByte off).2.plotBg n.bg c idx col) l j (n := n) (by simpa using hl) c 0
  simpa [State.drawsLeft] using h

theorem objTexel_before (l : Fin 160) (j : Nat) {o : ObjDesc} (ho : s.objs[s.k]? = some o) (ix : Nat) (c : Fin 240)
    (idx : Byte) (col : Color15) :
    ((s.plotObj c idx col).endObjCol l j o ix).Before l (rank 1 s.drawsLeft (o.bw - ix) 0) := by
  have h := endObjCol_before (s := s.plotObj c idx col) l j (o := o) (by simpa using ho) ix 0
  simpa [State.drawsLeft] using h

/-- At a draw position an instruction leaves less work: a selector, a column, or a layer or an object less (R127, R174,
R196, R200, R221). -/
theorem exec_draw_before {i : Instr} {p : DrawPos} (hs : s.seq = .line l (.draw j p)) (hok : p.ok s)
    (hi : (fetchPlace (.draw j p)).sel = i.selector) :
    ∃ t, exec i s = .next t ∧ t.Before l (Phase.work s (.draw j p)) := by
  cases p with
  | textSize n c =>
    cases i
    case text32x32 b | text64x32 b | text32x64 b | text64x64 b =>
      exact ⟨_, textLocate_at hs _ b,
        goto_draw_before ⟨hok, seAddr_wrapped_in_vram ..⟩ (rank_lt_fourth Nat.one_lt_two)⟩
    all_goals cases hi
  | textEntry n c addr fx fy =>
    cases i
    case seText e => exact ⟨_, execSeText_at hs e, goto_draw_before hok.1 (rank_lt_fourth Nat.one_pos)⟩
    all_goals cases hi
  | textDepth n c tile bank px py =>
    cases i
    case bg4bpp b => exact ⟨_, execBg4bpp_at hs b, textTexel_before l j hok c _ _ _⟩
    case bg8bpp b => exact ⟨_, execBg8bpp_at hs b, textTexel_before l j hok c _ _ _⟩
    all_goals cases hi
  | affSize n c =>
    cases i
    case aff128 | aff256 | aff512 | aff1024 =>
      exact ⟨_, affLocate_at hs _, goto_draw_before ⟨hok, by decide⟩ (rank_lt_fourth Nat.one_lt_two)⟩
    all_goals cases hi
  | affOverflow n c size tx ty =>
    obtain ⟨hl, hsz⟩ := hok
    cases i
    case affClip b =>
      refine ⟨_, execAffClip_at hs b, ?_⟩
      split
      next hin =>
        obtain ⟨hx, hy⟩ := Bool.and_eq_true_iff.1 hin
        exact goto_draw_before
          ⟨hl, affEntryAddr_in_vram _ hsz (toNat_lt_of_insideBy hx) (toNat_lt_of_insideBy hy)⟩
          (rank_lt_fourth Nat.one_pos)
      next => exact endAffCol_before l j hl c 1
    case affWrap b =>
      have hpos := pos_of_mem_affSizes hsz
      exact ⟨_, execAffWrap_at hs b, goto_draw_before
        ⟨hl, affEntryAddr_in_vram _ hsz (wrapTo_toNat_lt hpos _) (wrapTo_toNat_lt hpos _)⟩
        (rank_lt_fourth Nat.one_pos)⟩
    all_goals cases hi
  | affEntry n c addr base fx fy =>
    cases i
    case seAff tile => exact ⟨_, execSeAff_at hs tile, affTexel_before l j hok.1 c _ _ _⟩
    all_goals cases hi
  | objRender o ix =>
    cases i
    case objRegular a => exact ⟨_, execObjRegular_draw hs a, regularObjCol_before l j hok ix⟩
    case objAffine a => exact ⟨_, execObjAffine_draw hs a, affineObjCol_before l j hok ix _ _⟩
    case objAffineDouble a => exact ⟨_, execObjAffineDouble_draw hs a, affineObjCol_before l j hok ix _ _⟩
    case objHidden a => exact ⟨_, execObjHidden_draw hs a, endObj_before l j hok _ _⟩
    all_goals cases hi
  | objMap o ix c px py =>
    cases i
    case objMap2D d => exact ⟨_, execObjMap2D_at hs d, goto_draw_before hok (rank_lt_fourth Nat.one_pos)⟩
    case objMap1D d => exact ⟨_, execObjMap1D_at hs d, goto_draw_before hok (rank_lt_fourth Nat.one_pos)⟩
    all_goals cases hi
  | objDepth o ix c tn px py =>
    cases i
    case obj4bpp a => exact ⟨_, execObj4bpp_at hs a, objTexel_before l j hok ix c _ _⟩
    case obj8bpp a => exact ⟨_, execObj8bpp_at hs a, objTexel_before l j hok ix c _ _⟩
    all_goals cases hi

end Before

end Sys2Proof.Machine
end

section
/-! SUPPORT. The cells a request has written, and the end of every request. -/

namespace Sys2Proof.Machine

open Sys2Proof.Config

/-! ### The cells composed so far -/

/-- A sink whose first `n` cells, in the host's row-major order (R42), are those of `a`, and whose others are those of
`b`. -/
def sinkBefore (n : Nat) (a b : Sink) : Sink :=
  Vector.ofFn fun l => Vector.ofFn fun c => if cellIndex l c < n then a[l][c] else b[l][c]

/-- Sinks with the same cells are the same. -/
theorem sink_ext {a b : Sink} (h : ∀ (l : Fin 160) (c : Fin 240), a[l][c] = b[l][c]) : a = b :=
  Vector.ext fun l hl => Vector.ext fun c hc => h ⟨l, hl⟩ ⟨c, hc⟩

theorem sinkBefore_cell (n : Nat) (a b : Sink) (l : Fin 160) (c : Fin 240) :
    (sinkBefore n a b)[l][c] = if cellIndex l c < n then a[l][c] else b[l][c] := by
  simp [sinkBefore]

theorem sinkBefore_zero (a b : Sink) : sinkBefore 0 a b = b := by
  refine sink_ext fun l c => ?_
  rw [sinkBefore_cell, if_neg (Nat.not_lt_zero _)]

/-- Whole lines of cells are `sinkUpTo`'s. -/
theorem sinkBefore_lines (n : Nat) (a b : Sink) : sinkBefore (n * 240) a b = sinkUpTo n a b := by
  refine sink_ext fun l c => ?_
  have hlt : cellIndex l c < n * 240 ↔ l.val < n := by
    unfold cellIndex
    omega
  rw [sinkBefore_cell]
  simp only [hlt, sinkUpTo, Fin.getElem_fin, Vector.getElem_ofFn]
  split <;> rfl

/-- A cell composed is one more of the cells composed (R248). -/
theorem frameWrite_sinkBefore (s : State) (k : Sink) (l : Fin 160) (c : Fin 240) (col : Color15) :
    ((s.withSink (sinkBefore (cellIndex l c) s.sink k)).frameWrite l c col).sink =
      sinkBefore (cellIndex l c + 1) (s.frameWrite l c col).sink k := by
  refine sink_ext fun l' c' => ?_
  rw [sinkBefore_cell]
  change ((s.withSink _).frameWrite l c col).cell l' c' =
    if cellIndex l' c' < cellIndex l c + 1 then (s.frameWrite l c col).cell l' c' else k[l'][c']
  by_cases h : l' = l ∧ c' = c
  · obtain ⟨rfl, rfl⟩ := h
    rw [if_pos (Nat.lt_succ_self _), State.frameWrite_cell_same, State.frameWrite_cell_same]
  · have hne : cellIndex l' c' ≠ cellIndex l c := fun e => h (cellIndex_injective e)
    have hlt : cellIndex l' c' < cellIndex l c + 1 ↔ cellIndex l' c' < cellIndex l c := by omega
    rw [State.frameWrite_cell_other _ h, State.frameWrite_cell_other _ h]
    simp only [hlt]
    exact sinkBefore_cell ..

/-- A cell written with another sink changes nothing but the sink. -/
theorem frameWrite_withSink (s : State) (k : Sink) (l : Fin 160) (c : Fin 240) (col : Color15) :
    (s.withSink k).frameWrite l c col = (s.frameWrite l c col).withSink ((s.withSink k).frameWrite l c col).sink := rfl

/-! ### A step of a request under way -/

/-- A request under way at position `ph` of line `l`: it has raised no reason, stands where it can go on, and the hook
writes to come are legal (R70). -/
structure State.UnderWay (s : State) (l : Fin 160) (ph : Phase) : Prop where
  seq : s.seq = .line l ph
  fault : s.fault = none
  position : ph.drawOk s
  hooks : s.hooksLegal s.host

/-- The parameters and the host's moves to come are kept, but for the hook writes made, and with the hook off the
regions and all the moves (R20, R70). -/
structure State.Keeps (s t : State) : Prop where
  cfg : t.cfg = s.cfg
  host : t.host <:+ s.host
  hookOff : s.cfg.lineHook = false → t.mem = s.mem ∧ t.host = s.host

theorem State.Keeps.trans {s t u : State} (h : s.Keeps t) (h' : t.Keeps u) : s.Keeps u where
  cfg := h'.cfg.trans h.cfg
  host := h'.host.trans h.host
  hookOff hoff := by
    obtain ⟨hmem, hhost⟩ := h.hookOff hoff
    obtain ⟨hmem', hhost'⟩ := h'.hookOff (h.cfg ▸ hoff)
    exact ⟨hmem'.trans hmem, hhost'.trans hhost⟩

theorem State.sameInputs.keeps {s t : State} (h : s.sameInputs t) : s.Keeps t :=
  ⟨h.cfg, h.host ▸ List.suffix_refl _, fun _ => ⟨h.mem, h.host⟩⟩

/-- Fewer hook writes to come are legal as well. -/
theorem State.Keeps.hooksLegal {s t : State} (h : s.Keeps t) (hl : s.hooksLegal s.host) : t.hooksLegal t.host :=
  fun hon l w hw => hl (h.cfg ▸ hon) l w (h.host.subset hw)

/-- The work left in a request at position `ph` of line `l`: the lines, the host's moves, and the line's own. -/
def requestWork (s : State) (l : Fin 160) (ph : Phase) : Nat ×ₗ Nat ×ₗ Nat ×ₗ Nat ×ₗ Nat ×ₗ Nat :=
  toLex (160 - l.val, toLex (s.host.length, ph.work s))

section RequestWork

variable {s t : State} {l l' : Fin 160} {ph ph' : Phase}

theorem requestWork_lt_of_line (h : l.val < l'.val) : requestWork t l' ph' < requestWork s l ph :=
  Prod.Lex.toLex_lt_toLex.2 (.inl (by simp only; omega))

theorem requestWork_lt_of_host (h : t.host.length < s.host.length) : requestWork t l ph' < requestWork s l ph :=
  Prod.Lex.toLex_lt_toLex.2 (.inr ⟨rfl, Prod.Lex.toLex_lt_toLex.2 (.inl h)⟩)

theorem requestWork_lt_of_work (hh : t.host = s.host) (h : ph'.work t < ph.work s) :
    requestWork t l ph' < requestWork s l ph := by
  rw [requestWork, requestWork, hh]
  exact Prod.Lex.toLex_lt_toLex.2 (.inr ⟨rfl, Prod.Lex.toLex_lt_toLex.2 (.inr ⟨rfl, h⟩)⟩)

end RequestWork

/-- The cells a request has written at a position (R248). -/
def cellsAt (l : Fin 160) (ph : Phase) : Nat := l.val * 240 + ph.composed

/-- Before COMPOSE no cell of the line is written. -/
theorem cellsAt_before_compose (l : Fin 160) {ph : Phase} (hc : ph.composed = 0) : cellsAt l ph = l.val * 240 := by
  rw [cellsAt, hc, Nat.add_zero]

theorem cellsAt_compose (l : Fin 160) (c : Fin 240) : cellsAt l (.compose c) = cellIndex l c := rfl

/-- A request has ended with `n` cells written: in DONE with all of them, or in FAULT with those of the lines before
(R225, R267). -/
def State.EndedWith (t : State) (n : Nat) : Prop :=
  (t.seq = .done ∧ t.fault = none ∧ n = 160 * 240) ∨
    (t.seq = .fault ∧ t.fault.isSome = true ∧ ∃ l : Fin 160, n = l.val * 240)

/-- Where a step of a request leads, with `n` cells written: to a position with less work left than `w`, or to its
end. -/
def State.Progress (t : State) (w : Nat ×ₗ Nat ×ₗ Nat ×ₗ Nat ×ₗ Nat ×ₗ Nat) (n : Nat) : Prop :=
  (∃ l ph, t.UnderWay l ph ∧ requestWork t l ph < w ∧ n = cellsAt l ph) ∨ t.EndedWith n

/-- With other contents of the cells not yet written, `n` of them and then `n'`, a step does the same (R42, R248). -/
def TwinStep (s t : State) (n n' : Nat) : Prop :=
  ∀ k, step (s.withSink (sinkBefore n s.sink k)) = .next (t.withSink (sinkBefore n' t.sink k))

/-- The step from position `ph` of line `l` goes on and makes progress, and does the same whatever the cells not yet
written hold. -/
def State.StepsOn (s : State) (l : Fin 160) (ph : Phase) : Prop :=
  ∃ t n, step s = .next t ∧ s.Keeps t ∧ TwinStep s t (cellsAt l ph) n ∧ t.Progress (requestWork s l ph) n

/-- A due write of the line hook is made (R70). -/
theorem hook_stepsOn {s s' : State} {l : Fin 160} {ph : Phase} {w : HostWrite} (h : s.UnderWay l ph)
    (hd : s.hookDue l ph = some (w, s')) : s.StepsOn l ph := by
  obtain ⟨rfl, hon, l', rest, hhost, hl', rfl⟩ := hookDue_some hd
  have hw : w.legal := h.hooks hon l' w (by simp [hhost])
  have hkeeps : s.Keeps ((s.withHost rest).withMem (w.store s.mem)) :=
    ⟨rfl, hhost ▸ List.suffix_cons _ rest, fun hoff => by simp [hon] at hoff⟩
  have hstep (k : Sink) : step (s.withSink k) = .next (((s.withHost rest).withMem (w.store s.mem)).withSink k) := by
    have hd' : (s.withSink k).hookDue l (.select .mode) = some (w, (s.withHost rest).withSink k) := by
      rw [hookDue_withSink, hd]
      rfl
    rw [step_of_hookDue (s := s.withSink k) h.seq hd']
    exact (hostWrite_legal _ _ _).2 ⟨hw, rfl⟩
  refine ⟨_, _, hstep s.sink, hkeeps, fun k => hstep _,
    .inl ⟨l, .select .mode, ⟨h.seq, h.fault, trivial, hkeeps.hooksLegal h.hooks⟩,
      requestWork_lt_of_host (by simp [hhost]), rfl⟩⟩

/-- A move of a line that does not go to FAULT leaves the fault record alone (R260). -/
theorem LineMove.fault {s t : State} {l : Fin 160} {i : Instr} {ph : Phase} (hm : LineMove s l i ph t) :
    t.fault = s.fault ∨ t.seq = .fault := by
  cases hm with
  | badMode | badObjMode | badObjShape => exact .inr rfl
  | textTexel _ _ _ _ _ _ _ hu | affTexel _ _ _ _ _ _ _ hu => rcases hu with rfl | rfl <;> simp
  | _ => simp

/-- A move to a position of the same line with less work left is progress. -/
theorem LineMove.progress {s t : State} {l : Fin 160} {i : Instr} {ph : Phase} (hm : LineMove s l i ph t)
    (h : s.UnderWay l ph) (hb : t.Before l (ph.work s)) : t.Progress (requestWork s l ph) (l.val * 240) := by
  obtain ⟨ph', hs, hok, hlt, hc⟩ := hb
  have hin := hm.sameInputs
  have hf : t.fault = none := by
    obtain hf | hf := hm.fault
    · exact hf.trans h.fault
    · rw [hs] at hf
      cases hf
  exact .inl ⟨l, ph', ⟨hs, hf, hok, hin.keeps.hooksLegal h.hooks⟩, requestWork_lt_of_work hin.host hlt,
    (cellsAt_before_compose l hc).symm⟩

/-- A column is composed (R222, R224, R248). -/
theorem compose_progress {s : State} {l : Fin 160} {c : Fin 240} (h : s.UnderWay l (.compose c)) (col : Color15) :
    ((s.frameWrite l c col).endCompose l c).Progress (requestWork s l (.compose c)) (cellIndex l c + 1) := by
  obtain ⟨c', hc, e⟩ | ⟨hc, l', hl, e⟩ | ⟨hc, hl, e⟩ := endCompose_cases (s.frameWrite l c col) l c <;> rw [e]
  · refine .inl ⟨l, .compose c', ⟨rfl, h.fault, trivial, h.hooks⟩,
      requestWork_lt_of_work rfl (rank_lt_second (by omega)), ?_⟩
    rw [cellsAt_compose, cellIndex, cellIndex, hc, Nat.add_assoc]
  · refine .inl ⟨l', .select .mode, ⟨rfl, h.fault, trivial, h.hooks⟩, requestWork_lt_of_line (by omega), ?_⟩
    rw [cellsAt_before_compose l' rfl, cellIndex]
    omega
  · refine .inr (.inl ⟨rfl, h.fault, ?_⟩)
    simp only [cellIndex]
    omega

/-- Before COMPOSE an instruction makes progress, with no cell of the line written (R222, R268). -/
theorem exec_progress {s : State} {l : Fin 160} {ph : Phase} {i : Instr} (h : s.UnderWay l ph)
    (hi : (fetchPlace ph).sel = i.selector) (hc : (fetchPlace ph).sel ≠ .blendMode) :
    ∃ t, exec i s = .next t ∧ LineMove s l i ph t ∧ t.Progress (requestWork s l ph) (l.val * 240) := by
  obtain ⟨t, ht, hm⟩ := exec_completes h.seq hi
  refine ⟨t, ht, hm, ?_⟩
  cases ph with
  | select p =>
    obtain ⟨hs, hf⟩ | hb := hm.select_before
    · exact .inr (.inr ⟨hs, hf, l, rfl⟩)
    · exact hm.progress h hb
  | draw j p =>
    obtain ⟨t', ht', hb⟩ := exec_draw_before h.seq h.position hi
    rw [ht] at ht'
    cases ht'
    exact hm.progress h hb
  | compose c => exact absurd rfl hc

/-- The step of a column to compose (R248). -/
theorem compose_stepsOn {s : State} {l : Fin 160} {c : Fin 240} (h : s.UnderWay l (.compose c)) :
    s.StepsOn l (.compose c) := by
  obtain ⟨i, hi, hstep, htwin⟩ := step_runs_instr h.seq rfl h.position
  obtain ⟨f, hf, hk⟩ := exec_blend s hi.symm
  have ht := hf.trans (composeCol_at h.seq f)
  refine ⟨_, _, hstep.trans ht, (lineMove_of_exec_next h.seq ht).sameInputs.keeps, fun k => ?_, compose_progress h _⟩
  have hcol (k' : Sink) : composeCol f (s.withSink k') =
      .next (((s.withSink k').frameWrite l c (f (s.pixel c))).endCompose l c) :=
    composeCol_at (s := s.withSink k') h.seq f
  rw [cellsAt_compose, htwin, hk, hcol, State.endCompose_sink, frameWrite_withSink, frameWrite_sinkBefore,
    endCompose_withSink]

/-- The step of a selector before COMPOSE, with no hook write due. -/
theorem instr_stepsOn {s : State} {l : Fin 160} {ph : Phase} (h : s.UnderWay l ph) (hd : s.hookDue l ph = none)
    (hc : (fetchPlace ph).sel ≠ .blendMode) (h0 : ph.composed = 0) : s.StepsOn l ph := by
  obtain ⟨i, hi, hstep, htwin⟩ := step_runs_instr h.seq hd h.position
  obtain ⟨t, ht, hm, hp⟩ := exec_progress h hi hc
  have hsink : t.sink = s.sink := hm.sink.resolve_right fun ⟨c, e⟩ => hc (e ▸ rfl)
  refine ⟨t, _, hstep.trans ht, hm.sameInputs.keeps, fun k => ?_, hp⟩
  rw [cellsAt_before_compose l h0, htwin, exec_sinkFree (hi ▸ hc), ht, hsink]
  rfl

/-- Every step of a request under way goes on and makes progress: the hook's write, or an instruction. -/
theorem underWay_stepsOn {s : State} {l : Fin 160} {ph : Phase} (h : s.UnderWay l ph) : s.StepsOn l ph := by
  cases hd : s.hookDue l ph with
  | some due => exact hook_stepsOn h hd
  | none =>
    cases ph with
    | select p => exact instr_stepsOn h hd (by cases p <;> nofun) rfl
    | draw j p => exact instr_stepsOn h hd (by cases p <;> nofun) rfl
    | compose c => exact compose_stepsOn h

/-! ### The end of a request -/

/-- From `s`, with `m` cells written, `n` steps end the request at `t` with `written` lines written, and with any other
contents of the cells not yet written at the same end. -/
structure State.EndsAt (s : State) (m n : Nat) (t : State) (written : Nat) : Prop where
  steps : reaches n s t
  keeps : s.Keeps t
  twin : ∀ k, reaches n (s.withSink (sinkBefore m s.sink k)) (t.withSink (sinkUpTo written t.sink k))
  ended : (t.seq = .done ∧ t.fault = none ∧ written = 160) ∨
    (t.seq = .fault ∧ t.fault.isSome = true ∧ written < 160)

/-- A step further back. -/
theorem State.EndsAt.step_back {s t u : State} {m m' n written : Nat} (h : u.EndsAt m' n t written)
    (hstep : step s = .next u) (hkeeps : s.Keeps u) (htwin : TwinStep s u m m') : s.EndsAt m (n + 1) t written :=
  ⟨⟨u, hstep, h.steps⟩, hkeeps.trans h.keeps, fun k => ⟨_, htwin k, h.twin k⟩, h.ended⟩

/-- An ended request ends where it is. -/
theorem State.EndedWith.endsAt {t : State} {m : Nat} (h : t.EndedWith m) : ∃ written, t.EndsAt m 0 t written := by
  have hkeeps : t.Keeps t := ⟨rfl, List.suffix_refl _, fun _ => ⟨rfl, rfl⟩⟩
  have htwin (n : Nat) (k : Sink) : reaches 0 (t.withSink (sinkBefore (n * 240) t.sink k))
      (t.withSink (sinkUpTo n t.sink k)) := congrArg t.withSink (sinkBefore_lines n t.sink k)
  obtain ⟨hs, hf, rfl⟩ | ⟨hs, hf, l, rfl⟩ := h
  · exact ⟨160, rfl, hkeeps, htwin 160, .inl ⟨hs, hf, rfl⟩⟩
  · exact ⟨l, rfl, hkeeps, htwin l, .inr ⟨hs, hf, l.isLt⟩⟩

/-- Every request under way ends (R278, R290): by induction on the work left. -/
theorem underWay_ends {s : State} {l : Fin 160} {ph : Phase} (h : s.UnderWay l ph) :
    ∃ n t written, s.EndsAt (cellsAt l ph) n t written := by
  induction hw : requestWork s l ph using WellFoundedLT.induction generalizing s l ph with
  | ind w ih =>
    subst hw
    obtain ⟨u, m, hstep, hkeeps, htwin, ⟨l', ph', hu, hlt, rfl⟩ | hend⟩ := underWay_stepsOn h
    · obtain ⟨n, t, written, ht⟩ := ih _ hlt hu rfl
      exact ⟨n + 1, t, written, ht.step_back hstep hkeeps htwin⟩
    · obtain ⟨written, ht⟩ := hend.endsAt
      exact ⟨1, u, written, ht.step_back hstep hkeeps htwin⟩

/-- A request starts with nothing written (R224, R281). -/
theorem startFrame_underWay {s : State} (hf : s.fault = none) (hl : s.hooksLegal s.host) :
    s.startFrame.UnderWay 0 (.select .mode) := ⟨rfl, hf, trivial, hl⟩

/-- RENDER starts the frame, whatever the sink. -/
theorem step_of_asksForAFrame {s : State} {rest : List HostMove} (h : s.asksForAFrame rest) :
    step s = .next (s.withHost rest).startFrame := by
  have hs : ¬s.inLine := by
    rintro ⟨l, ph, hq⟩
    rcases h.ready with hr | hr <;> rw [hq] at hr <;> cases hr
  rw [step_of_render hs h.host]
  rcases h.ready with hr | hr <;>
    simp only [exec, execRender, State.withHost_seq, State.withHost_fault, hr, h.fault]

/-- Settles O60: RENDER's step starts a request under way with no cell written, and every request under way ends. -/
theorem everyRequestEnds : Obligations.EveryRequestEnds := by
  intro s rest h hl
  obtain ⟨n, t, written, ht⟩ := underWay_ends (startFrame_underWay (s := s.withHost rest) h.fault hl)
  refine ⟨n + 1, t, written, ⟨_, step_of_asksForAFrame h, ht.steps⟩, ht.keeps.host, ht.keeps.hookOff, fun k => ?_,
    ht.ended⟩
  have htwin := ht.twin k
  rw [show cellsAt 0 (.select .mode) = 0 from rfl, sinkBefore_zero] at htwin
  exact ⟨_, step_of_asksForAFrame (s := s.withSink k) ⟨h.ready, h.fault, h.host⟩, htwin⟩

end Sys2Proof.Machine
end

section
/-! SUPPORT. The encodings: the decoder gives a well-formed instruction back from its encoding, and what it answers is
the one instruction its bytes mean. With them the statements about the encodings. -/

namespace Sys2Proof

/-! ### Words and their bytes -/

/-- The bytes of a word made of two bytes (R62). -/
@[simp] theorem halfBytes_half (lo hi : Byte) : halfBytes (half lo hi) = [lo, hi] := by
  rw [halfBytes, half_low, half_high]

/-- A word's bytes are read as that word, whatever follows (R62). -/
theorem decodeHalf_halfBytes (sel : Selector) {f : Half → Instr} {w : Half} {i : Instr} (h : f w = i)
    (rest : List Byte) : decodeHalf sel f (halfBytes w ++ rest) = .ok (i, rest) := by
  simp only [halfBytes, List.cons_append, List.nil_append, decodeHalf, half_of_halfBytes, h]

/-- The two words of an object key are read from its bytes, whatever follows (R62, R96). -/
theorem decode_objSize_halfBytes {w0 w1 : Half} {i : Instr} (h : decodeObjSize w0 w1 = i) (rest : List Byte) :
    decode .objSize (halfBytes w0 ++ halfBytes w1 ++ rest) = .ok (i, rest) := by
  simp only [halfBytes, List.cons_append, List.nil_append, decode, half_of_halfBytes, h]

/-! ### Decoding an encoding -/

/-- A well-formed instruction is decoded from its encoding (R99): the word gives its fields back, and the selector
field among them has the value of the instruction's row. -/
theorem decode_encode {i : Instr} (h : i.wf = true) (rest : List Byte) :
    decode i.selector (encode i ++ rest) = .ok (i, rest) := by
  cases i <;> simp only [Instr.wf, beq_iff_eq, Bool.not_eq_true', Bool.and_eq_true] at h
  case mode0 | mode1 | mode2 | mode3 | mode4 | mode5 | mode6 | mode7 =>
    exact decodeHalf_halfBytes .bgMode (by simp [decodeBgMode, DispCnt.ofWord_toWord, h]) rest
  case objMap2D | objMap1D =>
    exact decodeHalf_halfBytes .objMapping (by simp [decodeObjMapping, DispCnt.ofWord_toWord, h]) rest
  case bg4bpp | bg8bpp => exact decodeHalf_halfBytes .bgDepth (by simp [decodeBgDepth, BgCnt.ofWord_toWord, h]) rest
  case text32x32 | text64x32 | text32x64 | text64x64 =>
    exact decodeHalf_halfBytes .textSize (by simp [decodeTextSize, BgCnt.ofWord_toWord, h]) rest
  case aff128 | aff256 | aff512 | aff1024 =>
    exact decodeHalf_halfBytes .affSize (by simp [decodeAffSize, BgCnt.ofWord_toWord, h]) rest
  case affClip | affWrap =>
    exact decodeHalf_halfBytes .affOverflow (by simp [decodeAffOverflow, BgCnt.ofWord_toWord, h]) rest
  case seText e =>
    exact decodeHalf_halfBytes .seText (f := fun w => .seText (SeText.ofWord w)) (congrArg _ e.ofWord_toWord) rest
  case seAff => rfl
  case objRegular | objAffine | objHidden | objAffineDouble =>
    exact decodeHalf_halfBytes .objRender (by simp [decodeObjRender, Attr0.ofWord_toWord, h]) rest
  case objGfxNormal | objGfxSemitrans | objGfxWindow | objGfxProhibited =>
    exact decodeHalf_halfBytes .objGfx (by simp [decodeObjGfx, Attr0.ofWord_toWord, h]) rest
  case obj4bpp | obj8bpp => exact decodeHalf_halfBytes .objDepth (by simp [decodeObjDepth, Attr0.ofWord_toWord, h]) rest
  case objSize8x8 | objSize16x16 | objSize32x32 | objSize64x64 | objSize16x8 | objSize32x8 | objSize32x16
      | objSize64x32 | objSize8x16 | objSize8x32 | objSize16x32 | objSize32x64 | objShapeProhibited =>
    exact decode_objSize_halfBytes (by simp [decodeObjSize, Attr0.ofWord_toWord, Attr1.ofWord_toWord, h]) rest
  case blendOff | blendAlpha | blendWhite | blendBlack =>
    exact decodeHalf_halfBytes .blendMode (by simp [decodeBlendMode, BldCnt.ofWord_toWord, h]) rest
  case render => rfl

/-! ### What the decoder answers -/

/-- Instruction `i` is a meaning of `bytes` under `sel` (R99, R100). -/
structure Instr.Means (i : Instr) (sel : Selector) (bytes : List Byte) : Prop where
  wf : i.wf = true
  selector : i.selector = sel
  encode : encode i = bytes

/-- The values of a two-bit field. -/
theorem two_bit_cases : ∀ v : BitVec 2, v = 0 ∨ v = 1 ∨ v = 2 ∨ v = 3 := by decide

/-- The values of a three-bit field. -/
theorem three_bit_cases :
    ∀ v : BitVec 3, v = 0 ∨ v = 1 ∨ v = 2 ∨ v = 3 ∨ v = 4 ∨ v = 5 ∨ v = 6 ∨ v = 7 := by decide

/-! Each selector's decoder answers a meaning of the word it reads: whatever the value of the selector field, the
instruction is the row with that value, and it keeps the other fields. -/

theorem decodeBgMode_means (w : Half) : (decodeBgMode w).Means .bgMode (halfBytes w) := by
  have hw := congrArg halfBytes (DispCnt.toWord_ofWord w)
  obtain h | h | h | h | h | h | h | h := three_bit_cases (DispCnt.ofWord w).bgMode <;>
    simp only [decodeBgMode, h] <;> exact ⟨beq_iff_eq.2 h, rfl, hw⟩

theorem decodeObjMapping_means (w : Half) : (decodeObjMapping w).Means .objMapping (halfBytes w) := by
  have hw := congrArg halfBytes (DispCnt.toWord_ofWord w)
  cases h : (DispCnt.ofWord w).objMap <;> simp only [decodeObjMapping, h] <;>
    exact ⟨by simp [Instr.wf, h], rfl, hw⟩

theorem decodeBgDepth_means (w : Half) : (decodeBgDepth w).Means .bgDepth (halfBytes w) := by
  have hw := congrArg halfBytes (BgCnt.toWord_ofWord w)
  cases h : (BgCnt.ofWord w).depth <;> simp only [decodeBgDepth, h] <;> exact ⟨by simp [Instr.wf, h], rfl, hw⟩

theorem decodeTextSize_means (w : Half) : (decodeTextSize w).Means .textSize (halfBytes w) := by
  have hw := congrArg halfBytes (BgCnt.toWord_ofWord w)
  obtain h | h | h | h := two_bit_cases (BgCnt.ofWord w).size <;>
    simp only [decodeTextSize, h] <;> exact ⟨beq_iff_eq.2 h, rfl, hw⟩

theorem decodeAffSize_means (w : Half) : (decodeAffSize w).Means .affSize (halfBytes w) := by
  have hw := congrArg halfBytes (BgCnt.toWord_ofWord w)
  obtain h | h | h | h := two_bit_cases (BgCnt.ofWord w).size <;>
    simp only [decodeAffSize, h] <;> exact ⟨beq_iff_eq.2 h, rfl, hw⟩

theorem decodeAffOverflow_means (w : Half) : (decodeAffOverflow w).Means .affOverflow (halfBytes w) := by
  have hw := congrArg halfBytes (BgCnt.toWord_ofWord w)
  cases h : (BgCnt.ofWord w).overflow <;> simp only [decodeAffOverflow, h] <;>
    exact ⟨by simp [Instr.wf, h], rfl, hw⟩

theorem seText_means (w : Half) : (Instr.seText (SeText.ofWord w)).Means .seText (halfBytes w) :=
  ⟨rfl, rfl, congrArg halfBytes (SeText.toWord_ofWord w)⟩

theorem decodeObjRender_means (w : Half) : (decodeObjRender w).Means .objRender (halfBytes w) := by
  have hw := congrArg halfBytes (Attr0.toWord_ofWord w)
  obtain h | h | h | h := two_bit_cases (Attr0.ofWord w).rm <;>
    simp only [decodeObjRender, h] <;> exact ⟨beq_iff_eq.2 h, rfl, hw⟩

theorem decodeObjGfx_means (w : Half) : (decodeObjGfx w).Means .objGfx (halfBytes w) := by
  have hw := congrArg halfBytes (Attr0.toWord_ofWord w)
  obtain h | h | h | h := two_bit_cases (Attr0.ofWord w).gfx <;>
    simp only [decodeObjGfx, h] <;> exact ⟨beq_iff_eq.2 h, rfl, hw⟩

theorem decodeObjDepth_means (w : Half) : (decodeObjDepth w).Means .objDepth (halfBytes w) := by
  have hw := congrArg halfBytes (Attr0.toWord_ofWord w)
  cases h : (Attr0.ofWord w).depth <;> simp only [decodeObjDepth, h] <;> exact ⟨by simp [Instr.wf, h], rfl, hw⟩

theorem decodeObjSize_means (w0 w1 : Half) :
    (decodeObjSize w0 w1).Means .objSize (halfBytes w0 ++ halfBytes w1) := by
  have hw := congrArg₂ (halfBytes · ++ halfBytes ·) (Attr0.toWord_ofWord w0) (Attr1.toWord_ofWord w1)
  obtain h0 | h0 | h0 | h0 := two_bit_cases (Attr0.ofWord w0).shape
  case inr.inr.inr =>
    simp only [decodeObjSize, h0]
    exact ⟨beq_iff_eq.2 h0, rfl, hw⟩
  all_goals
    obtain h1 | h1 | h1 | h1 := two_bit_cases (Attr1.ofWord w1).size <;>
      simp only [decodeObjSize, h0, h1] <;> exact ⟨by simp [Instr.wf, h0, h1], rfl, hw⟩

theorem decodeBlendMode_means (w : Half) : (decodeBlendMode w).Means .blendMode (halfBytes w) := by
  have hw := congrArg halfBytes (BldCnt.toWord_ofWord w)
  obtain h | h | h | h := two_bit_cases (BldCnt.ofWord w).mode <;>
    simp only [decodeBlendMode, h] <;> exact ⟨beq_iff_eq.2 h, rfl, hw⟩

/-- What the decoder has to answer for bytes under a selector (R99, R100, R101): what the first of them mean, with the
others, when the word is all there, and else that it is cut short. -/
inductive Selector.Answers (sel : Selector) (bytes : List Byte) : Except DecodeReject (Instr × List Byte) → Prop
  | whole {i : Instr} {word rest : List Byte} (hm : i.Means sel word) (hb : word ++ rest = bytes)
      (hw : sel.width ≤ bytes.length) : sel.Answers bytes (.ok (i, rest))
  | short (hw : bytes.length < sel.width) : sel.Answers bytes (.error (.truncated sel))

/-- A selector read from one word. -/
theorem decodeHalf_answers {sel : Selector} {f : Half → Instr} (hs : sel.width = 2)
    (hf : ∀ w, (f w).Means sel (halfBytes w)) : ∀ bytes, sel.Answers bytes (decodeHalf sel f bytes)
  | lo :: hi :: rest => .whole (hf _) (by simp) (by simp [hs])
  | [] | [_] => .short (by simp [hs])

/-- The decoder answers what it has to. -/
theorem decode_answers (sel : Selector) (bytes : List Byte) : sel.Answers bytes (decode sel bytes) := by
  cases sel
  case bgMode => exact decodeHalf_answers rfl decodeBgMode_means bytes
  case objMapping => exact decodeHalf_answers rfl decodeObjMapping_means bytes
  case bgDepth => exact decodeHalf_answers rfl decodeBgDepth_means bytes
  case textSize => exact decodeHalf_answers rfl decodeTextSize_means bytes
  case affSize => exact decodeHalf_answers rfl decodeAffSize_means bytes
  case affOverflow => exact decodeHalf_answers rfl decodeAffOverflow_means bytes
  case seText => exact decodeHalf_answers rfl seText_means bytes
  case objRender => exact decodeHalf_answers rfl decodeObjRender_means bytes
  case objGfx => exact decodeHalf_answers rfl decodeObjGfx_means bytes
  case objDepth => exact decodeHalf_answers rfl decodeObjDepth_means bytes
  case blendMode => exact decodeHalf_answers rfl decodeBlendMode_means bytes
  case request => exact .whole ⟨rfl, rfl, rfl⟩ rfl (Nat.zero_le _)
  case seAff =>
    match bytes with
    | b :: rest => exact .whole ⟨rfl, rfl, rfl⟩ rfl (by simp [Selector.width])
    | [] => exact .short (by simp [Selector.width])
  case objSize =>
    match bytes with
    | b0 :: b1 :: b2 :: b3 :: rest =>
      exact .whole (decodeObjSize_means _ _) (by simp) (by simp [Selector.width])
    | [] | [_] | [_, _] | [_, _, _] => exact .short (by simp [Selector.width])

/-! ### The statements about the encodings -/

/-- Settles O1: the fields of a word are read back from it, and a well-formed instruction's selector field has the value
of its row. -/
theorem decodeOfEncodeIsTheInstruction : Obligations.DecodeOfEncodeIsTheInstruction :=
  fun _ rest h => decode_encode h rest

/-- Settles O2: the answer for a whole word is what it means, and there is no such answer for one cut short. -/
theorem everyWordHasOneMeaning : Obligations.EveryWordHasOneMeaning := by
  intro sel bytes
  have ha := decode_answers sel bytes
  generalize decode sel bytes = answer at ha ⊢
  cases ha with
  | whole hm hb hw =>
    refine ⟨fun i rest h => ?_, fun _ => ⟨_, _, rfl⟩, fun h => absurd hw (Nat.not_le.2 h)⟩
    cases h
    exact ⟨hm.wf, hm.selector, hm.encode ▸ hb⟩
  | short hw => exact ⟨nofun, fun h => absurd h (Nat.not_le.2 hw), fun _ => rfl⟩

/-- Settles O3: the decoder run on each word. -/
theorem decodeOfWordsOfTheSpec : Obligations.DecodeOfWordsOfTheSpec := by
  unfold Obligations.DecodeOfWordsOfTheSpec
  decide

end Sys2Proof
end

section
/-! SUPPORT. The statements about an instruction out of its place and about the sizes of the object scan. -/

namespace Sys2Proof.Machine

/-- Settles O7: away from the place that decodes its selector, a selector's meaning is refused. -/
theorem outOfPlaceInstructionsAreRefused : Obligations.OutOfPlaceInstructionsAreRefused :=
  fun _ _ hi h => exec_outOfPlace hi h

/-- Line `l` is inside an object's box (R189, R198). -/
theorem onLine_iff (o : ObjDesc) (l : Fin 160) :
    o.onLine l = true ↔ o.y ≤ (l.val : Int) ∧ (l.val : Int) < o.y + (o.bh : Int) := by
  simp only [ObjDesc.onLine, Bool.and_eq_true, decide_eq_true_eq]

/-- Settles O30: each row is the size test with its own size, and shape 3 raises the fault. -/
theorem sizesTestTheLineAndShapeThreeFaults : Obligations.SizesTestTheLineAndShapeThreeFaults := by
  intro s l e k hs
  refine ⟨fun row hrow => ?_, execObjShapeProhibited_at hs k⟩
  have hexec : exec row.1 s = sizedObj row.2.1 row.2.2 k s := by
    simp only [List.mem_cons, List.not_mem_nil, or_false] at hrow
    rcases hrow with rfl | rfl | rfl | rfl | rfl | rfl | rfl | rfl | rfl | rfl | rfl | rfl <;> rfl
  rw [hexec, sizedObj_at hs]
  simp only [onLine_iff]
  rfl

end Sys2Proof.Machine
end

section
/-! SUPPORT. Regular maps: the screen-entry address, the map pixel and the screen entry of a column (R123–R126), and
the source's walk by tile columns, which offers each column of the screen once, in order (R128, R129). -/

namespace Sys2Proof.Machine

open Sys2Proof.Config Reference

/-! ### Screen entries -/

/-- A map has at most four quadrants (R125). -/
theorem textQuadrant_le_three {size : BitVec 2} {tx ty : Nat} (hx : tx < 64) (hy : ty < 64) :
    textQuadrant size tx ty ≤ 3 := by
  unfold textQuadrant
  split <;> omega

/-- Settles O18: the formula of each size is SEADDR's with that size's quadrant, which is at most 3. -/
theorem screenEntryAddress : Obligations.ScreenEntryAddress := by
  intro sbb tx ty
  refine ⟨rfl, rfl, rfl, rfl, fun size hx hy => ?_⟩
  have hx64 : tx < 64 := hx.trans_le (by split <;> omega)
  have hy64 : ty < 64 := hy.trans_le (by split <;> omega)
  have hq := textQuadrant_le_three (size := size) hx64 hy64
  have hb := sbb.isLt
  simp only [seAddr]
  omega

/-- A scroll is its register's value modulo 512 (R25). -/
theorem scroll_toNat (w : Half) : (scroll w).toNat = w.toNat % 512 := by
  simp [scroll, BitVec.extractLsb'_toNat]

/-- Settles O17: each size's meaning locates the map pixel by that size, with the scrolls' nine bits. -/
theorem textSizesLocateTheMapPixel : Obligations.TextSizesLocateTheMapPixel := by
  intro s l j n c b hs
  have hx : (s.bgData n).hofs.toNat = (s.mem.read16 .io (0x010 + 4 * n.val)).toNat % 512 := scroll_toNat _
  have hy : (s.bgData n).vofs.toNat = (s.mem.read16 .io (0x012 + 4 * n.val)).toNat % 512 := scroll_toNat _
  have hlocate := fun size => textLocate_at hs size b
  simp only [hx, hy] at hlocate
  exact ⟨hlocate 0, hlocate 1, hlocate 2, hlocate 3⟩

/-- A flip of one axis mirrors the pixel within its tile (R144). -/
theorem flip_val (b : Bool) (i : Fin 8) : (if b then i.rev else i).val = if b = true then 7 - i.val else i.val := by
  cases b
  · rfl
  · simp only [if_true, Fin.val_rev]
    omega

/-- Settles O19: the entry's fields are bits of its word, and its flips mirror the pixel. -/
theorem screenEntryGivesTileFlipsAndBank : Obligations.ScreenEntryGivesTileFlipsAndBank :=
  fun _ _ _ _ _ _ _ _ w hs => ⟨_, _, flip_val (w.getLsbD 10) _, flip_val (w.getLsbD 11) _, execSeText_at hs _⟩

/-! ### The early-out -/

/-- SETCOLOR leaves a filled Pixel alone (R216, R217). -/
theorem setColor_of_filled {p : Pixel} (h : filled p = true) (col : Color15) (top bot : Bool) :
    setColor p col top bot = p := by
  obtain ⟨hn, -⟩ | ⟨hn, ht, -, -⟩ | ⟨hn, ht, -, -⟩ | ⟨-, -, e⟩ := setColor_cases p col top bot
  · simp [filled, hn] at h
  · simp [filled, hn, ht] at h
  · simp [filled, hn, ht] at h
  · exact e

/-- A color offered to a filled Pixel changes nothing (R129). -/
theorem plot_of_filled {s : State} {c : Fin 240} (h : filled (s.pixel c) = true) (col : Color15) (top bot : Bool) :
    s.plot c col top bot = s := by
  simp only [State.plot, setColor_of_filled h]
  simp only [State.pixel, Vector.set_getElem_self]

/-- An index may be offered to a column's Pixel only where it is not filled (R129). -/
theorem plotIndex_eq_early_out (s : State) (c : Fin 240) (idx : Byte) (col : Color15) (top bot : Bool) :
    s.plotIndex c idx col top bot =
      if idx = 0 then s else if filled (s.pixel c) then s else s.plot c col top bot := by
  unfold State.plotIndex
  split
  · rfl
  · split
    · exact plot_of_filled ‹_› col top bot
    · rfl

/-- A span leaves out the columns off screen (R146). -/
theorem spanColumn_off_screen {xs : Int} {i : Fin 8} (h : screenCol (xs + i.val) = none) (sp : Space) (rowoff : Nat)
    (cd : Bool) (t : Palette) (pb : BitVec 4) (hf top bot : Bool) (s : State) :
    spanColumn sp rowoff cd t pb xs hf top bot s i = s := by
  simp only [spanColumn, h]

/-- On screen, a span's column is offered its texel: the early-out makes no difference (R129, R145). -/
theorem spanColumn_on_screen {xs : Int} {i : Fin 8} {c : Fin 240} (h : screenCol (xs + i.val) = some c) (sp : Space)
    (rowoff : Nat) (cd : Bool) (t : Palette) (pb : BitVec 4) (hf top bot : Bool) (s : State) :
    spanColumn sp rowoff cd t pb xs hf top bot s i =
      let px := if hf then i.rev else i
      let r := if cd then s.texel8 sp rowoff px.val else s.texel4 sp rowoff px.val
      r.2.plotIndex c r.1 (if cd then s.palette8 t r.1 else s.palette4 t pb r.1) top bot := by
  simp only [spanColumn, h, plotIndex_eq_early_out]

/-! ### A column reads the inputs only -/

/-- A state has its own inputs. -/
theorem State.sameInputs.refl (s : State) : s.sameInputs s := ⟨rfl, rfl, rfl, rfl, rfl, rfl, rfl⟩

/-- Inputs unchanged twice are unchanged. -/
theorem State.sameInputs.trans {s t u : State} (h : s.sameInputs t) (h' : t.sameInputs u) : s.sameInputs u :=
  ⟨h'.cfg.trans h.cfg, h'.mem.trans h.mem, h'.host.trans h.host, h'.x2.trans h.x2, h'.y2.trans h.y2, h'.x3.trans h.x3,
    h'.y3.trans h.y3⟩

/-- The resolved view of a layer is made of inputs (R120). -/
theorem State.sameInputs.bgData {s t : State} (h : s.sameInputs t) (n : Fin 4) : t.bgData n = s.bgData n := by
  simp only [State.bgData, State.bgCnt, State.bgHofs, State.bgVofs, State.bldCnt, State.dispCnt, State.affData, h.mem,
    h.x2, h.y2, h.x3, h.y3]

/-- An index offered to a column changes no input. -/
theorem State.sameInputs.plotIndex {s t : State} (h : s.sameInputs t) (c : Fin 240) (idx : Byte) (col : Color15)
    (top bot : Bool) : s.sameInputs (t.plotIndex c idx col top bot) := by
  obtain ⟨hcfg, hmem, hhost, hx2, hy2, hx3, hy3⟩ := h
  constructor <;> simpa

/-- A regular layer's column changes no input (R20, R39). -/
theorem textColumn_sameInputs (n : Fin 4) (l : Fin 160) (s : State) (c : Fin 240) :
    s.sameInputs (textColumn n l s c) := by
  refine State.sameInputs.plotIndex (sameInputs_of_read ?_) c _ _ _ _
  split <;> exact vramByte_state s _

/-- Nor do several columns. -/
theorem foldl_textColumn_sameInputs (n : Fin 4) (l : Fin 160) (s : State) (cs : List (Fin 240)) :
    s.sameInputs (cs.foldl (textColumn n l) s) :=
  List.foldlRecOn cs (textColumn n l) (.refl s) fun u hu c _ => hu.trans (textColumn_sameInputs n l u c)

/-! ### The columns of a tile column -/

/-- Where position `p` of the walk by tile columns is on screen: the walk starts a tile and `o` pixels left of the
screen (R128). -/
def walkCol (o p : Nat) : Option (Fin 240) := screenCol ((p : Int) - (8 + o : Nat))

/-- The screen columns of walk tile column `k`. -/
def walkTileCols (o k : Nat) : List (Fin 240) := ((List.range 8).map (8 * k + ·)).filterMap (walkCol o)

/-- A screen column of the walk is in the map tile that its tile column draws, at its place in the span (R124, R128). -/
theorem mapPixel_of_walkCol {hofs wt k : Nat} {i : Fin 8} {c : Fin 240}
    (hc : walkCol (hofs % 8) (8 * k + i.val) = some c) :
    (c.val + hofs) % (8 * wt) / 8 = (hofs / 8 + wt + k - 1) % wt ∧ Fin.ofNat 8 ((c.val + hofs) % (8 * wt)) = i := by
  have hcol := screenCol_some hc
  have hpixel : c.val + hofs = 8 * (hofs / 8 + k - 1) + i.val := by omega
  constructor
  · have htile : hofs / 8 + wt + k - 1 = (c.val + hofs) / 8 + wt := by omega
    rw [Nat.mod_mul_right_div_self, htile, Nat.add_mod_right]
  · apply Fin.ext
    simp only [Fin.ofNat]
    rw [Nat.mod_mul_right_mod]
    omega

/-- Column `i` of the span of walk tile column `k`, drawn on state `u` with its operands read in state `s` (R128,
R145). -/
def textSpanColumn (n : Fin 4) (l : Fin 160) (k : Nat) (s u : State) (i : Fin 8) : State :=
  let d := s.bgData n
  let y := (l.val + d.vofs.toNat) % (8 * textHt d.size)
  let tx := (d.hofs.toNat / 8 + textWt d.size + k - 1) % textWt d.size
  let se := SeText.ofWord (s.mem.read16 .vram (seAddr d.sbb d.size tx (y / 8)))
  let py := if se.vflip then (Fin.ofNat 8 y).rev else Fin.ofNat 8 y
  let rowoff := charBase d.cbb + se.tile.toNat * (if d.cd then 64 else 32) + py.val * (if d.cd then 8 else 4)
  spanColumn .bg rowoff d.cd .bg se.bank (8 * ((k : Int) - 1) - (d.hofs.toNat % 8 : Nat)) se.hflip d.top d.bot u i

/-- A tile column is drawn by the columns of its span (R128, R145). -/
theorem textTileColumn_eq_foldl_textSpanColumn (n : Fin 4) (l : Fin 160) (s : State) (k : Nat) :
    textTileColumn n l s k = (List.finRange 8).foldl (textSpanColumn n l k s) s := rfl

/-- A span's operands are inputs, so each of its columns may read them again. -/
theorem textSpanColumn_of_sameInputs {s u : State} (h : s.sameInputs u) (n : Fin 4) (l : Fin 160) (k : Nat)
    (i : Fin 8) : textSpanColumn n l k s u i = textSpanColumn n l k u u i := by
  simp only [textSpanColumn, h.bgData, h.mem]

/-- A span's column is the body of the loop over the screen's columns, where it is on screen (R127, R145, R146). -/
theorem textSpanColumn_eq_textColumn (n : Fin 4) (l : Fin 160) (k : Nat) (s : State) (i : Fin 8) :
    textSpanColumn n l k s s i =
      (walkCol ((s.bgData n).hofs.toNat % 8) (8 * k + i.val)).elim s (textColumn n l s) := by
  have hwalk : walkCol ((s.bgData n).hofs.toNat % 8) (8 * k + i.val) =
      screenCol (8 * ((k : Int) - 1) - ((s.bgData n).hofs.toNat % 8 : Nat) + i.val) := congrArg screenCol (by omega)
  cases hc : walkCol ((s.bgData n).hofs.toNat % 8) (8 * k + i.val) with
  | none => exact spanColumn_off_screen (hwalk.symm.trans hc) ..
  | some c =>
    obtain ⟨htile, hpixel⟩ := mapPixel_of_walkCol (wt := textWt (s.bgData n).size) hc
    simp only [Option.elim_some, textColumn, textSpanColumn, htile, hpixel, spanColumn_on_screen (hwalk.symm.trans hc)]
    cases (s.bgData n).cd <;> rfl

/-- Drawing a tile column draws its screen columns (R128, R145, R146). -/
theorem textTileColumn_eq_foldl_textColumn (n : Fin 4) (l : Fin 160) (s : State) (k : Nat) :
    textTileColumn n l s k = (walkTileCols ((s.bgData n).hofs.toNat % 8) k).foldl (textColumn n l) s := by
  simp only [textTileColumn_eq_foldl_textSpanColumn, walkTileCols, ← List.map_coe_finRange_eq_range, List.map_map,
    List.filterMap_map, List.foldl_filterMap]
  refine (List.foldl_rel (r := fun u v => u = v ∧ s.sameInputs v) ⟨rfl, .refl s⟩ ?_).1
  rintro i - u _ ⟨rfl, hu⟩
  rw [textSpanColumn_of_sameInputs hu, textSpanColumn_eq_textColumn, hu.bgData]
  simp only [Function.comp_apply]
  cases walkCol ((s.bgData n).hofs.toNat % 8) (8 * k + i.val) with
  | none => exact ⟨rfl, hu⟩
  | some c => exact ⟨rfl, hu.trans (textColumn_sameInputs n l u c)⟩

/-- The positions of `m` tile columns, in order. -/
theorem flatMap_tile_positions (m : Nat) :
    (List.range m).flatMap (fun k => (List.range 8).map (8 * k + ·)) = List.range (8 * m) := by
  induction m with
  | zero => rfl
  | succ m ih => simp [List.range_succ (n := m), ih, Nat.mul_succ, List.range_add]

/-- The walk's 32 tile columns cover the screen, each column once and in order (R128). -/
theorem flatMap_walkTileCols {o : Nat} (ho : o < 8) : (List.range 32).flatMap (walkTileCols o) = List.finRange 240 := by
  have hleft : (List.range (8 + o)).filterMap (walkCol o) = [] := by
    simp only [List.filterMap_eq_nil_iff, List.mem_range, walkCol, screenCol]
    intro p hp
    rw [dif_neg (by omega)]
  have hright : ((List.range (8 - o)).map (8 + o + 240 + ·)).filterMap (walkCol o) = [] := by
    simp only [List.filterMap_eq_nil_iff, List.mem_map, List.mem_range, walkCol, screenCol]
    rintro _ ⟨p, hp, rfl⟩
    rw [dif_neg (by omega)]
  have hscreen : ((List.range 240).map (8 + o + ·)).filterMap (walkCol o) = List.finRange 240 := by
    have hcol : walkCol o ∘ (8 + o + ·) ∘ Fin.val = (some : Fin 240 → Option (Fin 240)) := by
      funext c
      simp only [Function.comp_apply, walkCol, screenCol]
      rw [dif_pos (by omega)]
      congr 1
      apply Fin.ext
      simp only
      omega
    rw [← List.map_coe_finRange_eq_range, List.map_map, List.filterMap_map, hcol, List.filterMap_some]
  have hsplit : 8 * 32 = 8 + o + 240 + (8 - o) := by omega
  have hwalk : (List.range 32).flatMap (walkTileCols o) = (List.range (8 * 32)).filterMap (walkCol o) := by
    rw [← flatMap_tile_positions, List.filterMap_flatMap]
    rfl
  rw [hwalk, hsplit, List.range_add, List.range_add, List.filterMap_append, List.filterMap_append, hleft,
    hscreen, hright, List.nil_append, List.append_nil]

/-- Settles O55: each tile column draws its screen columns, and these are together the columns of the screen. -/
theorem tileWalkEqualsColumnWalk : Obligations.TileWalkEqualsColumnWalk := by
  intro n l s
  let o := (s.bgData n).hofs.toNat % 8
  symm
  calc drawTextBgByTiles n l s
      = (List.range 32).foldl (fun u k => (walkTileCols o k).foldl (textColumn n l) u) s := by
        refine (List.foldl_rel (r := fun u v => u = v ∧ s.sameInputs u) ⟨rfl, .refl s⟩ ?_).1
        rintro k - u _ ⟨rfl, hu⟩
        rw [textTileColumn_eq_foldl_textColumn, hu.bgData]
        exact ⟨rfl, hu.trans (foldl_textColumn_sameInputs n l u _)⟩
    _ = ((List.range 32).flatMap (walkTileCols o)).foldl (textColumn n l) s := List.foldl_flatMap.symm
    _ = drawTextBg n l s := by rw [flatMap_walkTileCols (Nat.mod_lt _ (by decide))]; rfl

end Sys2Proof.Machine
end

section
/-! SUPPORT. The steps of a layer's column are the body of its renderer's loop (R127, R174): one equation for the step
at each selector, and that the operations after them do not depend on where the sequencer stands. -/

namespace Sys2Proof.Machine

open Sys2Proof.Config Reference

/-! ### The operations of a column, with the sequencer moved -/

theorem pickDraw_goto (s : State) (q : Seq) (ls : List Layer) : pickDraw (s.goto q) ls = pickDraw s ls := by
  induction ls with
  | nil => rfl
  | cons a rest ih =>
    simp only [pickDraw, State.goto_objs, State.goto_k, ih]
    rfl

@[simp] theorem endLayer_goto (s : State) (q : Seq) (l : Fin 160) (j : Nat) :
    (s.goto q).endLayer l j = s.endLayer l j := by
  have hpick := pickDraw_goto (s.withLayers s.layers.tail) q s.layers.tail
  simp only [State.endLayer, State.startDraw, State.withLayers_layers]
  exact congrArg (fun r => ((s.withLayers s.layers.tail).withLayers r.1).goto (.line l (startPhase (j + 1) r.2))) hpick

@[simp] theorem endTextCol_goto (s : State) (q : Seq) (l : Fin 160) (j : Nat) (n : Fin 4) (c : Fin 240) :
    (s.goto q).endTextCol l j n c = s.endTextCol l j n c := by
  unfold State.endTextCol
  cases nextCol c with
  | some c' => rfl
  | none => exact endLayer_goto s q l j

@[simp] theorem endAffCol_goto (s : State) (q : Seq) (l : Fin 160) (j : Nat) (n : AffLayer) (c : Fin 240) :
    (s.goto q).endAffCol l j n c = s.endAffCol l j n c := by
  unfold State.endAffCol
  cases nextCol c with
  | some c' => rfl
  | none => exact endLayer_goto s q l j

theorem vramByte_goto (s : State) (q : Seq) (off : Nat) :
    (s.goto q).vramByte off = ((s.vramByte off).1, (s.vramByte off).2.goto q) := by
  unfold State.vramByte
  split <;> rfl

@[simp] theorem bgTexel4_goto (s : State) (q : Seq) (cbb : BitVec 2) (tile : BitVec 10) (px py : Fin 8) :
    (s.goto q).bgTexel4 cbb tile px py = ((s.bgTexel4 cbb tile px py).1, (s.bgTexel4 cbb tile px py).2.goto q) := by
  simp only [State.bgTexel4, State.texel4, vramByte_goto]

@[simp] theorem bgTexel8_goto (s : State) (q : Seq) (cbb : BitVec 2) (tile : BitVec 10) (px py : Fin 8) :
    (s.goto q).bgTexel8 cbb tile px py = ((s.bgTexel8 cbb tile px py).1, (s.bgTexel8 cbb tile px py).2.goto q) :=
  vramByte_goto s q _

@[simp] theorem affTexel_goto (s : State) (q : Seq) (base : Nat) (tile : BitVec 8) (fx fy : Fin 8) :
    (s.goto q).affTexel base tile fx fy = ((s.affTexel base tile fx fy).1, (s.affTexel base tile fx fy).2.goto q) :=
  vramByte_goto s q _

@[simp] theorem plotBg_goto (s : State) (q : Seq) (n : Fin 4) (c : Fin 240) (idx : Byte) (col : Color15) :
    (s.goto q).plotBg n c idx col = (s.plotBg n c idx col).goto q := by
  simp only [State.plotBg, State.plotIndex]
  split <;> rfl

/-! ### A texel is offered under the flags of the state before its read -/

theorem plotBg_of_read {s u : State} (hu : u = s ∨ u = s.countOob) (n : Fin 4) (c : Fin 240) (idx : Byte)
    (col : Color15) : u.plotBg n c idx col = u.plotIndex c idx col (s.bgData n).top (s.bgData n).bot := by
  rw [State.plotBg, (sameInputs_of_read hu).bgData]

theorem bgTexel4_plotBg (s : State) (cbb : BitVec 2) (tile : BitVec 10) (px py : Fin 8) (n : Fin 4) (c : Fin 240)
    (idx : Byte) (col : Color15) : (s.bgTexel4 cbb tile px py).2.plotBg n c idx col =
      (s.bgTexel4 cbb tile px py).2.plotIndex c idx col (s.bgData n).top (s.bgData n).bot :=
  plotBg_of_read (vramByte_state s _) n c idx col

theorem bgTexel8_plotBg (s : State) (cbb : BitVec 2) (tile : BitVec 10) (px py : Fin 8) (n : Fin 4) (c : Fin 240)
    (idx : Byte) (col : Color15) : (s.bgTexel8 cbb tile px py).2.plotBg n c idx col =
      (s.bgTexel8 cbb tile px py).2.plotIndex c idx col (s.bgData n).top (s.bgData n).bot :=
  plotBg_of_read (vramByte_state s _) n c idx col

theorem affTexel_plotBg (s : State) (base : Nat) (tile : BitVec 8) (fx fy : Fin 8) (n : Fin 4) (c : Fin 240)
    (idx : Byte) (col : Color15) : (s.affTexel base tile fx fy).2.plotBg n c idx col =
      (s.affTexel base tile fx fy).2.plotIndex c idx col (s.bgData n).top (s.bgData n).bot :=
  plotBg_of_read (vramByte_state s _) n c idx col

/-! ### The steps of a regular layer's column -/

section Steps

variable {s : State} {l : Fin 160} {j : Nat} {c : Fin 240}

/-- The size selector's instruction locates the map pixel by the word's size (R123, R124). -/
theorem exec_decodeTextSize (w : Half) (s : State) :
    exec (decodeTextSize w) s = textLocate (BgCnt.ofWord w).size (BgCnt.ofWord w) s := by
  obtain h | h | h | h := two_bit_cases (BgCnt.ofWord w).size <;> simp only [decodeTextSize, h] <;> rfl

/-- The depth selector's instruction is 8bpp exactly when the word's CD is 1 (R82, R140). -/
theorem exec_decodeBgDepth (w : Half) (s : State) :
    exec (decodeBgDepth w) s = if (BgCnt.ofWord w).depth then exec (.bg8bpp (BgCnt.ofWord w)) s
      else exec (.bg4bpp (BgCnt.ofWord w)) s := by
  cases h : (BgCnt.ofWord w).depth <;> simp only [decodeBgDepth, h] <;> rfl

/-- The step at the size of a regular layer's column (R123, R124). -/
theorem step_textSize {n : Fin 4} (hs : s.seq = .line l (.draw j (.textSize n c))) :
    step s = textLocate (s.bgData n).size (s.bgCnt n) s :=
  (stepReadsEachSelectorFromItsWord s l _ hs rfl).trans (exec_decodeTextSize _ s)

/-- The step at a screen entry in VRAM (R126). -/
theorem step_textEntry {n : Fin 4} {addr : Nat} {fx fy : Fin 8}
    (hs : s.seq = .line l (.draw j (.textEntry n c addr fx fy))) (ha : addr + 2 ≤ Region.size .vram) :
    step s = exec (.seText (SeText.ofWord (s.mem.read16 .vram addr))) s :=
  stepReadsEachSelectorFromItsWord s l _ hs rfl ha

/-- The step at the depth of a regular layer's column (R140). -/
theorem step_textDepth {n : Fin 4} {tile : BitVec 10} {bank : BitVec 4} {px py : Fin 8}
    (hs : s.seq = .line l (.draw j (.textDepth n c tile bank px py))) :
    step s = if (s.bgData n).cd then exec (.bg8bpp (s.bgCnt n)) s else exec (.bg4bpp (s.bgCnt n)) s :=
  (stepReadsEachSelectorFromItsWord s l _ hs rfl).trans (exec_decodeBgDepth _ s)

/-- What a regular layer's column draws of a tile's pixel (R127, R140, R157). -/
def textTexelColumn (n : Fin 4) (s : State) (c : Fin 240) (tile : BitVec 10) (bank : BitVec 4)
    (px py : Fin 8) : State :=
  let d := s.bgData n
  let r := if d.cd then s.bgTexel8 d.cbb tile px py else s.bgTexel4 d.cbb tile px py
  let col := if d.cd then s.palette8 .bg r.1 else s.palette4 .bg bank r.1
  r.2.plotIndex c r.1 col d.top d.bot

/-- That step draws the tile's pixel (R140, R157). -/
theorem step_textDepth_plots (s : State) (l : Fin 160) (j : Nat) (n : Fin 4) (c : Fin 240) (tile : BitVec 10)
    (bank : BitVec 4) (px py : Fin 8) :
    step (s.goto (.line l (.draw j (.textDepth n c tile bank px py)))) =
      .next ((textTexelColumn n s c tile bank px py).endTextCol l j n c) := by
  rw [step_textDepth rfl, textTexelColumn]
  split
  next h8 =>
    have hcd : (s.bgData n).cd = true := h8
    rw [execBg8bpp_at rfl]
    simp only [bgTexel8_goto, plotBg_goto, endTextCol_goto, bgTexel8_plotBg, hcd, if_true]
    rfl
  next h4 =>
    have hcd : (s.bgData n).cd = false := Bool.eq_false_iff.2 h4
    rw [execBg4bpp_at rfl]
    simp only [bgTexel4_goto, plotBg_goto, endTextCol_goto, bgTexel4_plotBg, hcd, Bool.false_eq_true,
      if_false]
    rfl

/-- Three steps from the size of a regular layer's column draw it (R127). -/
theorem textColumn_steps {n : Fin 4} (hs : s.seq = .line l (.draw j (.textSize n c))) :
    reaches 3 s ((textColumn n l s c).endTextCol l j n c) :=
  ⟨_, (step_textSize hs).trans (textLocate_at hs _ _), _,
    (step_textEntry rfl (seAddr_wrapped_in_vram ..)).trans (execSeText_at rfl _), _, step_textDepth_plots s .., rfl⟩

/-! ### The steps of an affine layer's column -/

/-- The size selector's instruction locates the texel in a map of `128 · 2^SIZE` pixels a side (R169). -/
theorem exec_decodeAffSize (w : Half) (s : State) :
    exec (decodeAffSize w) s = affLocate (128 <<< (BgCnt.ofWord w).size.toNat) s := by
  obtain h | h | h | h := two_bit_cases (BgCnt.ofWord w).size <;> simp only [decodeAffSize, h] <;> rfl

/-- The four map sizes of an affine layer (R169). -/
theorem affSize_mem : ∀ size : BitVec 2, 128 <<< size.toNat ∈ affSizes := by decide

/-- The overflow selector's instruction wraps exactly when the word's OVF is 1 (R170, R171). -/
theorem exec_decodeAffOverflow (w : Half) (s : State) :
    exec (decodeAffOverflow w) s = if (BgCnt.ofWord w).overflow then exec (.affWrap (BgCnt.ofWord w)) s
      else exec (.affClip (BgCnt.ofWord w)) s := by
  cases h : (BgCnt.ofWord w).overflow <;> simp only [decodeAffOverflow, h] <;> rfl

/-- The step at the size of an affine layer's column (R168, R169). -/
theorem step_affSize {n : AffLayer} (hs : s.seq = .line l (.draw j (.affSize n c))) :
    step s = affLocate (128 <<< (s.bgData n.bg).size.toNat) s :=
  (stepReadsEachSelectorFromItsWord s l _ hs rfl).trans (exec_decodeAffSize _ s)

/-- The step at the overflow rule of an affine layer's column (R170, R171). -/
theorem step_affOverflow {n : AffLayer} {size : Nat} {tx ty : Int}
    (hs : s.seq = .line l (.draw j (.affOverflow n c size tx ty))) :
    step s = if (s.bgData n.bg).ovf then exec (.affWrap (s.bgCnt n.bg)) s else exec (.affClip (s.bgCnt n.bg)) s :=
  (stepReadsEachSelectorFromItsWord s l _ hs rfl).trans (exec_decodeAffOverflow _ s)

/-- What an affine layer's column draws of a texel inside the map (R172–R174). -/
def affTexelColumn (n : AffLayer) (s : State) (c : Fin 240) (size tx ty : Nat) : State :=
  let d := s.bgData n.bg
  let tile := s.mem.read8 .vram (affEntryAddr d.sbb size tx ty)
  let r := s.affTexel (charBase d.cbb) tile (Fin.ofNat 8 tx) (Fin.ofNat 8 ty)
  r.2.plotIndex c r.1 (s.palette8 .bg r.1) d.top d.bot

/-- The body of the affine renderer's loop, by the overflow rule (R170, R171, R174). -/
theorem affineColumn_eq (n : AffLayer) (l : Fin 160) (s : State) (c : Fin 240) :
    affineColumn n l s c =
      let size := 128 <<< (s.bgData n.bg).size.toNat
      let t := affCoord (s.affData n) l c
      if (s.bgData n.bg).ovf then affTexelColumn n s c size (wrapTo size t.1).toNat (wrapTo size t.2).toNat
      else if insideBy size t.1 && insideBy size t.2 then affTexelColumn n s c size t.1.toNat t.2.toNat
      else s := rfl

/-- The step at a map byte in VRAM (R172). -/
theorem step_affEntry {n : AffLayer} {addr base : Nat} {fx fy : Fin 8}
    (hs : s.seq = .line l (.draw j (.affEntry n c addr base fx fy))) (ha : addr + 1 ≤ Region.size .vram) :
    step s = exec (.seAff (s.mem.read8 .vram addr)) s :=
  stepReadsEachSelectorFromItsWord s l _ hs rfl ha

/-- That step draws a texel inside the map (R173). -/
theorem step_affEntry_plots (s : State) (l : Fin 160) (j : Nat) (n : AffLayer) (c : Fin 240) {size tx ty : Nat}
    (hs : size ∈ affSizes) (hx : tx < size) (hy : ty < size) :
    step (s.goto (.line l (.draw j (affEntryPos (s.bgCnt n.bg) n c size tx ty)))) =
      .next ((affTexelColumn n s c size tx ty).endAffCol l j n c) := by
  rw [step_affEntry rfl (affEntryAddr_in_vram _ hs hx hy), execSeAff_at rfl]
  simp only [affTexel_goto, plotBg_goto, endAffCol_goto, affTexel_plotBg]
  rfl

/-- Three steps from the size of an affine layer's column draw it; two, where its texel is outside the map (R174). -/
theorem affineColumn_steps {n : AffLayer} (hs : s.seq = .line l (.draw j (.affSize n c))) :
    ∃ k, k ≤ 3 ∧ reaches k s ((affineColumn n l s c).endAffCol l j n c) := by
  have hsize := affSize_mem (s.bgData n.bg).size
  have hlocate := (step_affSize hs).trans (affLocate_at hs _)
  rw [affineColumn_eq]
  dsimp only
  split
  next hwrap =>
    have hpos := pos_of_mem_affSizes hsize
    exact ⟨3, le_rfl, _, hlocate, _, (step_affOverflow rfl).trans ((if_pos hwrap).trans (execAffWrap_at rfl _)), _,
      step_affEntry_plots s l j n c hsize (wrapTo_toNat_lt hpos _) (wrapTo_toNat_lt hpos _), rfl⟩
  next hclip =>
    split
    next hin =>
      obtain ⟨hx, hy⟩ := Bool.and_eq_true_iff.1 hin
      exact ⟨3, le_rfl, _, hlocate, _, (step_affOverflow rfl).trans ((if_neg hclip).trans
        ((execAffClip_at rfl _).trans (congrArg _ (if_pos hin)))), _,
        step_affEntry_plots s l j n c hsize (toNat_lt_of_insideBy hx) (toNat_lt_of_insideBy hy), rfl⟩
    next hout =>
      exact ⟨2, by decide, _, hlocate, _, (step_affOverflow rfl).trans ((if_neg hclip).trans
        ((execAffClip_at rfl _).trans (congrArg _ (if_neg hout)))), endAffCol_goto ..⟩

end Steps

/-- Settles O57: the steps of each kind of layer's column. -/
theorem columnsAreTheRulesLoopBodies : Obligations.ColumnsAreTheRulesLoopBodies :=
  fun _ _ _ _ => ⟨fun _ hs => textColumn_steps hs, fun _ hs => affineColumn_steps hs⟩

end Sys2Proof.Machine
end

section
/-! SUPPORT. The texels of a regular layer (R140–R143): the index of each depth from the byte VRAM gives, the
flags it is offered under (R122), and the whole step at the color depth. -/

namespace Sys2Proof.Machine

open Sys2Proof.Config

/-! ### The flags of a layer -/

/-- A bit of a four-bit layer mask is a bit of the register the mask is cut from (R122). -/
theorem layerBit_extractLsb' (w : Half) (k : Nat) (n : Fin 4) :
    layerBit (w.extractLsb' k 4) n = w.getLsbD (k + n.val) := by
  rw [layerBit, BitVec.getLsbD_extractLsb', decide_eq_true n.isLt, Bool.true_and]

/-- A background index is offered under the layer's two bits of BLDCNT (R122), and index 0 is not offered (R143). -/
theorem plotBg_eq (s : State) (n : Fin 4) (c : Fin 240) (idx : Byte) (col : Color15) :
    s.plotBg n c idx col = if idx = 0 then s
      else s.plot c col ((s.mem.read16 .io 0x050).getLsbD n.val) ((s.mem.read16 .io 0x050).getLsbD (8 + n.val)) := by
  have htop : (s.bgData n).top = (s.mem.read16 .io 0x050).getLsbD n.val :=
    (layerBit_extractLsb' _ 0 n).trans (by rw [Nat.zero_add])
  have hbot : (s.bgData n).bot = (s.mem.read16 .io 0x050).getLsbD (8 + n.val) := layerBit_extractLsb' _ 8 n
  rw [State.plotBg, State.plotIndex, htop, hbot]

/-! ### The index of each depth -/

/-- The low nibble is the byte modulo 16, the high one its quotient (R90, R141). -/
theorem nibbleOf_toNat (b : Byte) (px : Nat) :
    (nibbleOf b px).toNat = if px % 2 = 0 then b.toNat % 16 else b.toNat / 16 := by
  have hb := b.isLt
  unfold nibbleOf
  split <;> simp only [BitVec.toNat_setWidth, BitVec.extractLsb'_toNat, Nat.shiftRight_eq_div_pow] <;> omega

/-- A 4bpp background texel is the nibble of a byte that is always in VRAM (R140, R141). -/
theorem bgTexel4_eq (s : State) (cbb : BitVec 2) (tile : BitVec 10) (px py : Fin 8) :
    s.bgTexel4 cbb tile px py =
      (nibbleOf (s.mem.read8 .vram (cbb.toNat * 0x4000 + tile.toNat * 32 + py.val * 4 + px.val / 2)) px.val, s) := by
  have hin : cbb.toNat * 0x4000 + tile.toNat * 32 + py.val * 4 + px.val / 2 < Region.size .vram := by
    simp only [Region.size]
    omega
  simp only [State.bgTexel4, State.texel4, Space.addr, charBase, vramByte_in hin]

/-- An 8bpp background texel is the byte read at its offset (R140, R142). -/
theorem bgTexel8_eq (s : State) (cbb : BitVec 2) (tile : BitVec 10) (px py : Fin 8) :
    s.bgTexel8 cbb tile px py = s.vramByte (cbb.toNat * 0x4000 + tile.toNat * 64 + py.val * 8 + px.val) := rfl

/-- The background table starts at the first palette word (R155, R157). -/
theorem palette4_bg (s : State) (bank : BitVec 4) (idx : Byte) :
    s.palette4 .bg bank idx = colorOf (s.mem.read16 .pal (2 * (bank.toNat * 16 + idx.toNat))) := by
  rw [State.palette4, Palette.base, Nat.zero_add]

/-- In 8bpp its entry is the index alone (R155, R157). -/
theorem palette8_bg (s : State) (idx : Byte) :
    s.palette8 .bg idx = colorOf (s.mem.read16 .pal (2 * idx.toNat)) := by
  rw [State.palette8, Palette.base, Nat.zero_add]

/-! ### The steps at the color depth -/

/-- Settles O20: the texel is a nibble in VRAM, whose number selects the entry and is 0 exactly for index 0. -/
theorem fourBitTexelsReachTheirColumn : Obligations.FourBitTexelsReachTheirColumn := by
  intro s l j n c tile bank px py b hs
  dsimp only
  rw [execBg4bpp_at hs, bgTexel4_eq, plotBg_eq, palette4_bg, ← nibbleOf_toNat]
  simp only [BitVec.toNat_eq, BitVec.ofNat_eq_ofNat, BitVec.toNat_zero]

/-- Settles O21: the two cases of a byte read (R65, R66); the count of the reads beyond VRAM is no register. -/
theorem eightBitTexelsReachTheirColumn : Obligations.EightBitTexelsReachTheirColumn := by
  intro s l j n c tile bank px py b hs
  have hexec := execBg8bpp_at hs b
  rw [bgTexel8_eq, plotBg_eq, palette8_bg] at hexec
  refine ⟨fun hin => ?_, fun hout => ?_⟩
  · rwa [vramByte_in hin] at hexec
  · rwa [vramByte_out hout] at hexec

end Sys2Proof.Machine
end

section
/-! SUPPORT. Palettes and colors (R155–R160): a palette word as a number, and a color as the number its three channels
make in base 32. -/

namespace Sys2Proof.Machine

/-! ### Palette words -/

/-- Bit 15 is dropped (R160). -/
theorem colorOf_toNat (w : Half) : (colorOf w).toNat = w.toNat % 0x8000 := BitVec.extractLsb'_toNat 0 15 w

/-- A lookup in 4bpp as a number, in either table (R155, R157, R160). -/
theorem palette4_toNat (s : State) (t : Palette) (pb : BitVec 4) (idx : Byte) :
    (s.palette4 t pb idx).toNat =
      (s.mem.read16 .pal (t.base + 2 * (pb.toNat * 16 + idx.toNat))).toNat % 0x8000 := colorOf_toNat _

/-- A lookup in 8bpp as a number, in either table (R155, R157, R160). -/
theorem palette8_toNat (s : State) (t : Palette) (idx : Byte) :
    (s.palette8 t idx).toNat = (s.mem.read16 .pal (t.base + 2 * idx.toNat)).toNat % 0x8000 := colorOf_toNat _

/-! ### Channels -/

theorem red_toNat (c : Color15) : (red c).toNat = c.toNat % 32 := BitVec.extractLsb'_toNat 0 5 c

theorem green_toNat (c : Color15) : (green c).toNat = c.toNat / 32 % 32 := by
  rw [green, BitVec.extractLsb'_toNat, Nat.shiftRight_eq_div_pow]

/-- Blue is the top of the color, so its quotient needs no remainder (R156). -/
theorem blue_toNat (c : Color15) : (blue c).toNat = c.toNat / 1024 := by
  rw [blue, BitVec.extractLsb'_toNat, Nat.shiftRight_eq_div_pow]
  exact Nat.mod_eq_of_lt (by have := c.isLt; omega)

/-- `pack` puts its channels side by side: each is below 32, so none reaches into the next (R156). -/
theorem pack_toNat (r g b : BitVec 5) : (pack r g b).toNat = b.toNat * 1024 + g.toNat * 32 + r.toNat := by
  rw [pack, BitVec.toNat_append, BitVec.toNat_append, ← Nat.shiftLeft_add_eq_or_of_lt r.isLt,
    ← Nat.shiftLeft_add_eq_or_of_lt g.isLt, Nat.shiftLeft_eq, Nat.shiftLeft_eq]
  omega

/-- The three channels are the color's digits in base 32 (R156). -/
theorem pack_channels (c : Color15) : pack (red c) (green c) (blue c) = c := by
  apply BitVec.eq_of_toNat_eq
  rw [pack_toNat, red_toNat, green_toNat, blue_toNat]
  omega

/-- Settles O39: `palette4_toNat` and `palette8_toNat` with each table's start, the entry bound from the widths of the
bank and the index, and a color as its channels. -/
theorem paletteLookupsAndChannels : Obligations.PaletteLookupsAndChannels := by
  refine ⟨fun s pb idx => ?_, fun c => ⟨red_toNat c, green_toNat c, blue_toNat c, pack_channels c⟩, pack_toNat⟩
  have hbg4 := palette4_toNat s .bg pb idx
  have hbg8 := palette8_toNat s .bg idx
  rw [Palette.base, Nat.zero_add] at hbg4 hbg8
  have hpb := pb.isLt
  have hidx8 := idx.isLt
  exact ⟨fun hidx => ⟨hbg4, palette4_toNat s .obj pb idx, by omega⟩, hbg8, palette8_toNat s .obj idx, by omega,
    colorOf_toNat _⟩

end Sys2Proof.Machine
end

section
/-! SUPPORT. The affine layers (R166–R173): the texel of a column as a floored quotient by 256 whose dividend fits in
32 signed bits, the two overflow rules on a texel, and the whole step at a map byte. -/

namespace Sys2Proof.Machine

open Sys2Proof.Config

/-! ### The texel of a column -/

/-- `>> 8` is the floored quotient by 256 (R168). -/
theorem shiftRight_eight (a : Int) : a >>> (8 : Nat) = a / 256 := Int.shiftRight_eq_div_pow a 8

/-- The shift that takes its number of places as an integer is the same (R168). -/
theorem shiftRight_int_eight (a : Int) : a >>> (8 : Int) = a >>> (8 : Nat) := Int.shiftRight_natCast_right a 8

/-- The texel of a column, each coordinate a floored quotient (R167, R168). -/
theorem affCoord_eq (d : AffData) (l : Fin 160) (c : Fin 240) :
    affCoord d l c = ((d.x0 + l.val * d.pb + d.pa * c.val) / 256, (d.y0 + l.val * d.pd + d.pc * c.val) / 256) := by
  simp only [affCoord, shiftRight_int_eight, shiftRight_eight]

/-- A line or column number times a coefficient is at most 240 · 2^15 in magnitude (R84). -/
theorem mul_coef_bounds {k : Nat} (hk : k ≤ 240) (w : Half) :
    -(240 * 2 ^ 15) ≤ k * coef w ∧ k * coef w ≤ 240 * 2 ^ 15 := by
  have hlow : -2 ^ 15 ≤ coef w := w.le_toInt
  have hhigh : coef w < 2 ^ 15 := BitVec.toInt_lt
  constructor <;> nlinarith

/-- A 28-bit reference point moved by a line and a column stays within 32 signed bits (R168). -/
theorem affine_sum_fits (x0 : BitVec 28) (p q : Half) (l : Fin 160) (c : Fin 240) :
    -(2 ^ 31) ≤ x0.toInt + l.val * coef p + coef q * c.val ∧
      x0.toInt + l.val * coef p + coef q * c.val < 2 ^ 31 := by
  have hlow : -2 ^ 27 ≤ x0.toInt := x0.le_toInt
  have hhigh : x0.toInt < 2 ^ 27 := BitVec.toInt_lt
  have hline := mul_coef_bounds (k := l.val) (by omega) p
  have hcolumn := mul_coef_bounds (k := c.val) (by omega) q
  rw [mul_comm (coef q)]
  omega

/-- Settles O23: each size's meaning locates the texel `affCoord_eq` gives, and each sum is a reference point's. -/
theorem affineSizesLocateTheTexel : Obligations.AffineSizesLocateTheTexel := by
  intro s l j n c b hs
  have hlocate := affLocate_at hs
  simp only [affCoord_eq] at hlocate
  have hfits x0 p q := affine_sum_fits x0 p q l c
  cases n <;>
    exact ⟨hlocate 128, hlocate 256, hlocate 512, hlocate 1024, (hfits _ _ _).1, (hfits _ _ _).2, (hfits _ _ _).1,
      (hfits _ _ _).2⟩

/-! ### The overflow rules -/

/-- A wrapped texel differs from the texel by a multiple of the map's size (R170). -/
theorem eq_mul_add_wrapTo_toNat {size : Nat} (hs : 0 < size) (t : Int) :
    ∃ a : Int, t = a * size + (wrapTo size t).toNat := by
  have h0 : 0 ≤ wrapTo size t := Int.emod_nonneg t (by omega)
  exact ⟨t / size, by rw [Int.toNat_of_nonneg h0, wrapTo, Int.ediv_mul_add_emod]⟩

/-- −1 wraps to the map's last pixel (R170). -/
theorem wrapTo_neg_one_toNat {size : Nat} (hs : 0 < size) : (wrapTo size (-1)).toNat = size - 1 := by
  have h : wrapTo size (-1) = size - 1 := by
    rw [wrapTo, ← Int.add_emod_right, Int.emod_eq_of_lt] <;> omega
  omega

/-- The map byte of a texel inside the map is below 0x13800: the last block's start and the largest map (R172). -/
theorem affEntryAddr_le (sbb : BitVec 5) {size tx ty : Nat} (hs : size ∈ affSizes) (hx : tx < size) (hy : ty < size) :
    affEntryAddr sbb size tx ty ≤ 0x137FF := by
  have hb := sbb.isLt
  simp only [affSizes, List.mem_cons, List.not_mem_nil, or_false] at hs
  simp only [affEntryAddr]
  rcases hs with rfl | rfl | rfl | rfl <;> omega

/-- Settles O24: the wrapped coordinates are residues modulo the map's size. -/
theorem wrapMasksTheTexelIntoTheMap : Obligations.WrapMasksTheTexelIntoTheMap := by
  intro s l j n c size tx ty b hs hsize
  have hpos := pos_of_mem_affSizes hsize
  have hx := wrapTo_toNat_lt hpos tx
  have hy := wrapTo_toNat_lt hpos ty
  exact ⟨_, _, hx, hy, eq_mul_add_wrapTo_toNat hpos tx, eq_mul_add_wrapTo_toNat hpos ty,
    fun h => h ▸ wrapTo_neg_one_toNat hpos, affEntryAddr_le b.sbb hsize hx hy, execAffWrap_at hs b⟩

/-- Both coordinates are inside the map (R171). -/
theorem insideBy_and_iff (size : Nat) (tx ty : Int) :
    (insideBy size tx && insideBy size ty) = true ↔ (0 ≤ tx ∧ tx < size) ∧ 0 ≤ ty ∧ ty < size := by
  simp only [insideBy, Bool.and_eq_true, decide_eq_true_eq]

/-- Settles O25: AFF_CLIP's test is false of a texel outside the map and true of one inside. -/
theorem clipSkipsTexelsOutsideTheMap : Obligations.ClipSkipsTexelsOutsideTheMap := by
  intro s l j n c size tx ty b hs
  have hclip := execAffClip_at hs b
  refine ⟨fun hout => ?_, fun ux uy hx hy hux huy => ?_⟩
  · rwa [if_neg (by rw [insideBy_and_iff]; omega)] at hclip
  · rw [if_pos ((insideBy_and_iff size tx ty).2 (by omega)), hx, hy] at hclip
    exact hclip

/-! ### The step at a map byte -/

/-- An affine texel is the byte read at its offset (R142, R173). -/
theorem affTexel_eq (s : State) (base : Nat) (tile : BitVec 8) (fx fy : Fin 8) :
    s.affTexel base tile fx fy = s.vramByte (base + tile.toNat * 64 + fy.val * 8 + fx.val) := rfl

/-- The number of an affine layer's background. -/
theorem affLayer_bg_val (n : AffLayer) : n.bg.val = match n with | .bg2 => 2 | .bg3 => 3 := by
  cases n <;> rfl

/-- Settles O26: the offset's bound from a character base, and the two cases of a byte read (R65, R66). -/
theorem affineTexelsReachTheirColumn : Obligations.AffineTexelsReachTheirColumn := by
  intro s l j n c addr base fx fy tile hs
  have hexec := execSeAff_at hs tile
  rw [affTexel_eq, plotBg_eq, palette8_bg, affLayer_bg_val] at hexec
  refine ⟨fun hbase => ?_, fun hin => ?_, fun hout => ?_⟩
  · omega
  · rwa [vramByte_in hin] at hexec
  · rwa [vramByte_out hout] at hexec

end Sys2Proof.Machine
end

section
/-! SUPPORT. RENDER where it starts a frame (R224). -/

namespace Sys2Proof.Machine

/-- RENDER from IDLE or DONE with no fault starts a frame (R224). -/
theorem execRender_of_ready {s : State} (hs : s.seq = .idle ∨ s.seq = .done) (hf : s.fault = none) :
    exec .render s = .next s.startFrame := by
  rcases hs with hs | hs <;> simp only [exec, execRender, hs, hf]

/-- Settles O9: RENDER answers the start of a frame, whose reference points are `refPoint`'s bits. -/
theorem renderLatchesAndStartsLineZero : Obligations.RenderLatchesAndStartsLineZero :=
  fun _ hs hf =>
    ⟨_, execRender_of_ready hs hf, rfl, hf, rfl, rfl, rfl, rfl, rfl, rfl, rfl, rfl, rfl, rfl, rfl, rfl, rfl⟩

end Sys2Proof.Machine
end

section
/-! SUPPORT. The object scan (R190): the sort at its end, the steps of an OAM entry, and what selecting leaves
unchanged. -/

namespace Sys2Proof.Machine

/-! ### The order objects are drawn in -/

theorem insertBy_eq_orderedInsert {α : Type} (before : α → α → Bool) (x : α) (xs : List α) :
    insertBy before x xs = xs.orderedInsert (fun a b => before a b = true) x := by
  induction xs with
  | nil => rfl
  | cons y ys ih => rw [insertBy, List.orderedInsert_cons, ih]

/-- The model's sort is insertion sort. -/
theorem sortBy_eq_insertionSort {α : Type} (before : α → α → Bool) (xs : List α) :
    sortBy before xs = xs.insertionSort (fun a b => before a b = true) := by
  induction xs with
  | nil => rfl
  | cons x xs ih => rw [sortBy, ih, insertBy_eq_orderedInsert, List.insertionSort_cons]

/-- The key of R190. -/
theorem objBefore_iff (a b : ObjDesc) :
    objBefore a b = true ↔ a.prio.toNat < b.prio.toNat ∨ a.prio = b.prio ∧ a.idx.val ≤ b.idx.val := by
  simp only [objBefore, Bool.or_eq_true, Bool.and_eq_true, decide_eq_true_eq]

/-- The key's order is total, and it is transitive, so a sort by it is in order. -/
theorem sortBy_objBefore_pairwise (os : List ObjDesc) :
    (sortBy objBefore os).Pairwise fun a b => objBefore a b = true := by
  have htotal : Std.Total fun a b : ObjDesc => objBefore a b = true := ⟨fun a b => by
    simp only [objBefore_iff, BitVec.toNat_eq]
    omega⟩
  have htrans : IsTrans ObjDesc fun a b => objBefore a b = true := ⟨fun a b c => by
    simp only [objBefore_iff, BitVec.toNat_eq]
    omega⟩
  rw [sortBy_eq_insertionSort]
  exact List.pairwise_insertionSort _ os

/-- Settles O16: the scan ends with the model's sort, an insertion sort by R190's key. -/
theorem selectionSortsByPriorityThenIndex : Obligations.SelectionSortsByPriorityThenIndex :=
  fun s _ => ⟨sortBy objBefore s.objs, by rw [sortBy_eq_insertionSort]; exact List.perm_insertionSort _ _,
    (sortBy_objBefore_pairwise s.objs).imp fun h => (objBefore_iff _ _).1 h, rfl⟩

/-! ### The fields of an entry -/

/-- Bits 8:0 give an object's horizontal position between −256 and 255 (R98). -/
theorem objX_bounds (x : BitVec 9) : -256 ≤ objX x ∧ objX x ≤ 255 := by
  have hlow : -2 ^ 8 ≤ objX x := x.le_toInt
  have hhigh : objX x < 2 ^ 8 := BitVec.toInt_lt
  omega

/-- Bits 7:0 give an object's vertical position, above 160 wrapped back by 256 (R98). -/
theorem objY_extractLsb' (w : Half) :
    objY (w.extractLsb' 0 8) = if w.toNat % 256 > 160 then (w.toNat % 256 : Int) - 256 else w.toNat % 256 := by
  have hy : (w.extractLsb' 0 8).toNat = w.toNat % 256 := BitVec.extractLsb'_toNat 0 8 w
  simp only [objY, hy, Int.natCast_emod, Nat.cast_ofNat]

/-- The matrix index is bits 13:9, the two flips' bits and the three below (R93, R95). -/
theorem Attr1.matrix_ofWord (w : Half) : (Attr1.ofWord w).matrix = w.extractLsb' 9 5 := by
  apply BitVec.eq_of_getLsbD_eq
  intro i hi
  change BitVec.getLsbD (w := 1 + 1 + 3)
    (BitVec.ofBool (w.getLsbD 13) ++ BitVec.ofBool (w.getLsbD 12) ++ w.extractLsb' 9 3) i = _
  rw [BitVec.getLsbD_append, BitVec.getLsbD_append]
  interval_cases i <;> simp

/-- Settles O27: the formats' fields are the bits of their words, and the position and the matrix index are made of
them. -/
theorem objectDecodeReadsEveryField : Obligations.ObjectDecodeReadsEveryField :=
  fun _ w0 w1 _ _ _ => ⟨rfl, objY_extractLsb' w0, rfl, rfl, rfl, rfl, rfl, rfl, rfl, rfl, Attr1.matrix_ofWord w1, rfl,
    rfl, rfl, rfl, rfl, (objX_bounds _).1, (objX_bounds _).2⟩

/-! ### The instructions of the scan -/

/-- Settles O28: the four render modes where the scan decodes them. -/
theorem hiddenEntriesAreSkipped : Obligations.HiddenEntriesAreSkipped := by
  intro s l e a hs
  refine ⟨execObjHidden_scan hs a, fun i hi => ?_⟩
  simp only [List.mem_cons, List.not_mem_nil, or_false] at hi
  rcases hi with rfl | rfl | rfl
  · exact execObjRegular_scan hs a
  · exact execObjAffine_scan hs a
  · exact execObjAffineDouble_scan hs a

/-- Settles O29: the four graphics modes where the scan decodes them. -/
theorem graphicsModesSelectSkipOrFault : Obligations.GraphicsModesSelectSkipOrFault :=
  fun _ _ _ a hs => ⟨drawnGfx_at hs, drawnGfx_at hs, execObjGfxWindow_at hs a, execObjGfxProhibited_at hs a⟩

/-! ### The steps of an entry -/

theorem startDraw_goto (s : State) (q : Seq) (l : Fin 160) (j : Nat) :
    (s.goto q).startDraw l j = s.startDraw l j := by
  simp only [State.startDraw, State.goto_layers, pickDraw_goto]
  rfl

/-- The end of an entry does not depend on which of its selectors was decoded last. -/
theorem endEntry_goto (s : State) (q : Seq) (l : Fin 160) (e : Fin 128) :
    (s.goto q).endEntry l e = s.endEntry l e := by
  unfold State.endEntry
  cases nextObj e with
  | some e' => rfl
  | none => exact startDraw_goto ((s.withObjs (sortBy objBefore s.objs)).withCursor 0) q l 0

section Scan

variable {s : State} {l : Fin 160} {e : Fin 128}

/-- The render mode of an entry: a hidden one is over (R186). -/
theorem exec_decodeObjRender_scan (hs : s.seq = .line l (.select (.render e))) (w : Half) :
    exec (decodeObjRender w) s =
      .next (if (Attr0.ofWord w).rm = 2 then s.endEntry l e else s.goto (.line l (.select (.gfx e)))) := by
  obtain h | h | h | h := two_bit_cases (Attr0.ofWord w).rm <;> simp only [decodeObjRender, h]
  · exact execObjRegular_scan hs _
  · exact execObjAffine_scan hs _
  · exact execObjHidden_scan hs _
  · exact execObjAffineDouble_scan hs _

/-- The graphics mode of an entry: a window is over, the prohibited one is fatal (R187, R188). -/
theorem exec_decodeObjGfx_scan (hs : s.seq = .line l (.select (.gfx e))) (w : Half) :
    exec (decodeObjGfx w) s =
      .next (if (Attr0.ofWord w).gfx = 2 then s.endEntry l e
        else if (Attr0.ofWord w).gfx = 3 then s.raiseFatal .badObjMode
        else s.goto (.line l (.select (.size e)))) := by
  obtain h | h | h | h := two_bit_cases (Attr0.ofWord w).gfx <;> simp only [decodeObjGfx, h]
  · exact drawnGfx_at hs
  · exact drawnGfx_at hs
  · exact execObjGfxWindow_at hs _
  · exact execObjGfxProhibited_at hs _

/-- Shape 3 is fatal, whatever the size (R188). -/
theorem exec_decodeObjSize_of_shape_three (hs : s.seq = .line l (.select (.size e))) {w0 : Half}
    (h : (Attr0.ofWord w0).shape = 3) (w1 : Half) :
    exec (decodeObjSize w0 w1) s = .next (s.raiseFatal .badObjShape) := by
  simp only [decodeObjSize, h]
  exact execObjShapeProhibited_at hs _

/-- The step at the render mode of an entry. -/
theorem step_scanRender (hs : s.seq = .line l (.select (.render e))) :
    step s = .next (if (s.mem.read16 .oam (8 * e.val)).extractLsb' 8 2 = 2 then s.endEntry l e
      else s.goto (.line l (.select (.gfx e)))) :=
  (stepReadsEachSelectorFromItsWord s l _ hs rfl).trans (exec_decodeObjRender_scan hs _)

/-- The step at the graphics mode of an entry that is not hidden. -/
theorem step_scanGfx (s : State) (l : Fin 160) (e : Fin 128) :
    step (s.goto (.line l (.select (.gfx e)))) =
      .next (if (s.mem.read16 .oam (8 * e.val)).extractLsb' 10 2 = 2 then s.endEntry l e
        else if (s.mem.read16 .oam (8 * e.val)).extractLsb' 10 2 = 3 then s.raiseFatal .badObjMode
        else s.goto (.line l (.select (.size e)))) := by
  rw [← endEntry_goto s (.line l (.select (.gfx e)))]
  exact (stepReadsEachSelectorFromItsWord (s.goto _) l (.select (.gfx e)) rfl rfl).trans (exec_decodeObjGfx_scan rfl _)

/-- The step at the size of an entry of shape 3. -/
theorem step_scanSize_of_shape_three (l : Fin 160)
    (h : (s.mem.read16 .oam (8 * e.val)).extractLsb' 14 2 = 3) :
    step (s.goto (.line l (.select (.size e)))) = .next (s.raiseFatal .badObjShape) :=
  (stepReadsEachSelectorFromItsWord (s.goto _) l (.select (.size e)) rfl rfl).trans
    (exec_decodeObjSize_of_shape_three rfl h _)

end Scan

/-- Settles O31: each check is the step at its selector, and a check passed goes on to the next one. -/
theorem entryChecksFaultInOrder : Obligations.EntryChecksFaultInOrder := by
  intro s l e hs
  have hrender := step_scanRender hs
  have hgfx := step_scanGfx s l e
  refine ⟨fun hrm h3 => ?_, fun hrm h2 h3 hshape => ?_, fun hrm => ?_, fun hrm h2 => ?_⟩
  · rw [if_neg hrm] at hrender
    rw [if_neg (by rw [h3]; decide), if_pos h3] at hgfx
    exact ⟨_, hrender, _, hgfx, rfl⟩
  · rw [if_neg hrm] at hrender
    rw [if_neg h2, if_neg h3] at hgfx
    exact ⟨_, hrender, _, hgfx, _, step_scanSize_of_shape_three l hshape, rfl⟩
  · rw [if_pos hrm] at hrender
    exact ⟨_, hrender, rfl⟩
  · rw [if_neg hrm] at hrender
    rw [if_pos h2] at hgfx
    exact ⟨_, hrender, _, hgfx, rfl⟩

/-! ### What selecting leaves unchanged -/

section Selecting

variable {s t : State} {l : Fin 160} {i : Instr} {p : ScanPos}

/-- Selecting reads nothing from beyond VRAM (R190). -/
theorem LineMove.select_oobReads (hm : LineMove s l i (.select p) t) : t.oobReads = s.oobReads := by
  cases hm <;> simp

/-- The row is emptied at the mode dispatch, and the scan leaves it alone (R222). -/
theorem LineMove.select_row (hm : LineMove s l i (.select p) t) :
    t.row = if p = .mode then Row.empty else s.row := by
  cases hm with
  | skip he =>
    have hp : p ≠ .mode := by
      rintro rfl
      cases he
    rw [if_neg hp, State.endEntry_row]
  | _ => simp

end Selecting

/-- Settles O45: what each move of a select position changes. -/
theorem selectingDrawsNothing : Obligations.SelectingDrawsNothing := by
  intro i s t l p hs h
  have hm := lineMove_of_exec_next hs h
  exact ⟨hm.sink.resolve_right nofun, hm.select_oobReads, fun hp => hm.select_row.trans (if_neg hp),
    fun hp => hm.select_row.trans (if_pos hp), fun ht => hm.fault.resolve_right ht⟩

end Sys2Proof.Machine
end

section
/-! SUPPORT. Drawing an object (R192–R201): the source pixel of a box column, its tile number and its texel, and that
a regular object's tile columns draw its box columns. -/

namespace Sys2Proof.Machine

open Reference

/-! ### Box columns -/

/-- A column on screen is its own screen column (R146). -/
theorem screenCol_val (c : Fin 240) : screenCol c.val = some c := by
  rw [screenCol, dif_pos (by omega)]
  rfl

/-- Off screen there is no column (R146). -/
theorem screenCol_of_off {x : Int} (h : x < 0 ∨ 240 ≤ x) : screenCol x = none := by
  rw [screenCol, dif_neg (by omega)]

section BoxColumn

variable {o : ObjDesc} {ix : Nat}

theorem ObjDesc.col_of_on {c : Fin 240} (h : o.x + (ix : Int) = c.val) : o.col ix = some c := by
  rw [ObjDesc.col, h, screenCol_val]

theorem ObjDesc.col_of_off (h : o.x + (ix : Int) < 0 ∨ 240 ≤ o.x + (ix : Int)) : o.col ix = none := screenCol_of_off h

variable (s : State) (l : Fin 160) (j : Nat)

/-- A box column of a regular object on screen shows its source pixel (R196). -/
theorem regularObjCol_on {c : Fin 240} (h : o.x + (ix : Int) = c.val) :
    regularObjCol s l j o ix =
      s.goto (.line l (.draw j (.objMap o ix c (regularSource o l ix).1 (regularSource o l ix).2))) := by
  simp only [regularObjCol, ObjDesc.col_of_on h]

/-- One off screen is skipped (R146). -/
theorem regularObjCol_off (h : o.x + (ix : Int) < 0 ∨ 240 ≤ o.x + (ix : Int)) :
    regularObjCol s l j o ix = s.endObjCol l j o ix := by
  simp only [regularObjCol, ObjDesc.col_of_off h]

/-- A box column of an affine object on screen, with its texel inside the true size, shows it (R199, R200). -/
theorem affineObjCol_inside {c : Fin 240} (h : o.x + (ix : Int) = c.val) {bw bh ux uy : Nat}
    (ht : affineSource o (s.objMatrix o.mat) bw bh l ix = ((ux : Int), (uy : Int))) (hx : ux < o.w) (hy : uy < o.h) :
    affineObjCol bw bh s l j o ix = s.goto (.line l (.draw j (.objMap o ix c ux uy))) := by
  have hin : insideBy o.w ux = true ∧ insideBy o.h uy = true := by
    simp only [insideBy, Bool.and_eq_true, decide_eq_true_eq]
    omega
  simp [affineObjCol, ObjDesc.col_of_on h, ht, hin]

/-- One whose texel is outside the true size, or off screen, is left unset (R199, R200). -/
theorem affineObjCol_outside {bw bh : Nat} {tx ty : Int}
    (ht : affineSource o (s.objMatrix o.mat) bw bh l ix = (tx, ty))
    (h : o.x + (ix : Int) < 0 ∨ 240 ≤ o.x + (ix : Int) ∨ tx < 0 ∨ (o.w : Int) ≤ tx ∨ ty < 0 ∨ (o.h : Int) ≤ ty) :
    affineObjCol bw bh s l j o ix = s.endObjCol l j o ix := by
  cases hc : o.col ix with
  | none => simp only [affineObjCol, hc]
  | some c =>
    have hcol := screenCol_some hc
    have hout : ¬(insideBy o.w tx && insideBy o.h ty) = true := by
      simp only [insideBy, Bool.and_eq_true, decide_eq_true_eq]
      omega
    simp only [affineObjCol, hc, ht, if_neg hout]

end BoxColumn

/-- Settles O32: OBJ_REGULAR's two kinds of box column; the flips are `regularSource`'s. -/
theorem regularObjectsFlipOverTheWholeObject : Obligations.RegularObjectsFlipOverTheWholeObject := by
  intro s l j o ix a hs
  exact ⟨fun c hc => (execObjRegular_draw hs a).trans (congrArg _ (regularObjCol_on s l j hc)),
    fun hoff => (execObjRegular_draw hs a).trans (congrArg _ (regularObjCol_off s l j hoff))⟩

/-! ### The inverse-affine texel -/

/-- The texel of a box column, each coordinate a floored quotient about the centres (R199). -/
theorem affineSource_eq (o : ObjDesc) (m : ObjMatrix) (bw bh : Nat) (l : Fin 160) (ix : Nat) :
    affineSource o m bw bh l ix =
      ((m.pa * (ix - (bw / 2 : Nat)) + m.pb * (l.val - o.y - (bh / 2 : Nat))) / 256 + (o.w / 2 : Nat),
        (m.pc * (ix - (bw / 2 : Nat)) + m.pd * (l.val - o.y - (bh / 2 : Nat))) / 256 + (o.h / 2 : Nat)) := by
  simp only [affineSource, shiftRight_int_eight, shiftRight_eight]

/-- Settles O33: the two affine modes are a box column in a box of their own size, whose texel is `affineSource_eq`'s. -/
theorem affineObjectsLookUpTheInverseTexel : Obligations.AffineObjectsLookUpTheInverseTexel := by
  intro s l j o ix a hs
  refine ⟨fun mode hmode => ?_, execObjHidden_draw hs a⟩
  have hexec : exec mode.1 s = .next (affineObjCol mode.2.1 mode.2.2 s l j o ix) := by
    simp only [List.mem_cons, List.not_mem_nil, or_false] at hmode
    rcases hmode with rfl | rfl
    · exact execObjAffine_draw hs a
    · exact execObjAffineDouble_draw hs a
  have ht := affineSource_eq o (s.objMatrix o.mat) mode.2.1 mode.2.2 l ix
  refine ⟨fun c ux uy hc hx hy hux huy => ?_, fun hout => ?_⟩
  · have htexel := ht.trans (congrArg₂ Prod.mk hx hy)
    exact hexec.trans (congrArg _ (affineObjCol_inside s l j hc htexel hux huy))
  · exact hexec.trans (congrArg _ (affineObjCol_outside s l j ht hout))

/-- Under the identity matrix the texel of a double-size object is the box pixel, moved from the box's centre to the
object's (R199). -/
theorem affineSource_identity_double (o : ObjDesc) (l : Fin 160) (ix : Nat) :
    affineSource o ⟨0x100, 0, 0, 0x100⟩ (2 * o.w) (2 * o.h) l ix =
      ((ix : Int) - o.w + (o.w / 2 : Nat), l.val - o.y - o.h + (o.h / 2 : Nat)) := by
  rw [affineSource_eq]
  ext <;> simp

/-- Settles O34: half of an even size on each side of the centre. -/
theorem identityDoubleSizeIsCentred : Obligations.IdentityDoubleSizeIsCentred := by
  intro o l ix iy hw hh hl
  simp only [affineSource_identity_double, insideBy, Bool.and_eq_true, decide_eq_true_eq]
  omega

/-! ### Tile numbers and texels -/

/-- Settles O35: each mapping's formula, with R193's factor `k`. -/
theorem objectTileNumbers : Obligations.ObjectTileNumbers :=
  fun _ _ _ _ _ _ _ _ d hs => ⟨execObjMap1D_at hs d, execObjMap2D_at hs d⟩

/-- An object's offset is masked into the object bank (R147, R194). -/
theorem obj_addr_eq (off : Nat) : Space.obj.addr off = 0x10000 + (off &&& 0x7FFF) :=
  congrArg (0x10000 + ·) (Nat.and_two_pow_sub_one_eq_mod off 15).symm

/-- A byte of an object's tile data is always in VRAM (R194). -/
theorem vramByte_obj (s : State) (off : Nat) :
    s.vramByte (Space.obj.addr off) = (s.mem.read8 .vram (0x10000 + (off &&& 0x7FFF)), s) := by
  rw [vramByte_in (obj_addr_range off).2, obj_addr_eq]

/-- A 4bpp object texel is a nibble of the object bank (R194, R195). -/
theorem objTexel4_eq (s : State) (tn px py : Nat) :
    s.objTexel4 tn px py =
      (nibbleOf (s.mem.read8 .vram (0x10000 + ((tn * 32 + py % 8 * 4 + px % 8 / 2) &&& 0x7FFF))) (px % 8), s) := by
  simp only [State.objTexel4, State.texel4, vramByte_obj]

/-- An 8bpp object texel is a byte of the object bank (R194, R195). -/
theorem objTexel8_eq (s : State) (tn px py : Nat) :
    s.objTexel8 tn px py =
      (s.mem.read8 .vram (0x10000 + ((tn * 32 + py % 8 * 8 + px % 8) &&& 0x7FFF)), s) := vramByte_obj s _

/-- An object's index is offered under bits 4 and 12 of BLDCNT (R201), and index 0 is not offered (R143). -/
theorem plotObj_eq (s : State) (c : Fin 240) (idx : Byte) (col : Color15) :
    s.plotObj c idx col = if idx.toNat = 0 then s
      else s.plot c col ((s.mem.read16 .io 0x050).getLsbD 4) ((s.mem.read16 .io 0x050).getLsbD 12) := by
  have h0 : idx = 0 ↔ idx.toNat = 0 := BitVec.toNat_eq
  simp only [State.plotObj, State.plotIndex, h0]
  rfl

/-- Settles O36: the texel is `objTexel4_eq`'s or `objTexel8_eq`'s, offered as `plotObj_eq` says. -/
theorem objectTexelsReachTheirColumn : Obligations.ObjectTexelsReachTheirColumn := by
  intro s l j o ix c tn px py a hs
  have h4 := execObj4bpp_at hs a
  have h8 := execObj8bpp_at hs a
  rw [objTexel4_eq, plotObj_eq, State.palette4, nibbleOf_toNat] at h4
  rw [objTexel8_eq, plotObj_eq] at h8
  exact ⟨h4, h8⟩

/-! ### The columns of a regular object, in any order -/

/-- SETCOLOR on different columns may be called in either order. -/
theorem plot_comm (s : State) {c d : Fin 240} (h : c ≠ d) (col col' : Color15) (top bot top' bot' : Bool) :
    (s.plot c col top bot).plot d col' top' bot' = (s.plot d col' top' bot').plot c col top bot := by
  have hc := State.plot_pixel_other s h col' top' bot'
  have hd := State.plot_pixel_other s h.symm col top bot
  have hrow := Vector.set_comm (xs := s.row) (hi := c.isLt) (hj := d.isLt) (setColor (s.pixel c) col top bot)
    (setColor (s.pixel d) col' top' bot') fun e => h (Fin.ext e)
  simp only [State.plot] at hc hd ⊢
  simp only [hc, hd, hrow]

/-- Indices offered to different columns may be offered in either order. -/
theorem plotIndex_comm (s : State) {c d : Fin 240} (h : c ≠ d) (idx idx' : Byte) (col col' : Color15)
    (top bot top' bot' : Bool) :
    (s.plotIndex c idx col top bot).plotIndex d idx' col' top' bot' =
      (s.plotIndex d idx' col' top' bot').plotIndex c idx col top bot := by
  by_cases h0 : idx = 0
  · simp only [h0, plotIndex_zero]
  by_cases h0' : idx' = 0
  · simp only [h0', plotIndex_zero]
  · simp only [plotIndex_opaque _ _ h0, plotIndex_opaque _ _ h0', plot_comm s h]

/-- The palette index of an object's pixel (R193, R195). -/
def objIndex (s : State) (o : ObjDesc) (px py : Nat) : Byte :=
  if o.cm then (s.objTexel8 (objTile s o (px / 8) (py / 8)) px py).1
  else (s.objTexel4 (objTile s o (px / 8) (py / 8)) px py).1

/-- The color an object's palette index has (R158). -/
def objColor (s : State) (o : ObjDesc) (idx : Byte) : Color15 :=
  if o.cm then s.palette8 .obj idx else s.palette4 .obj o.pb idx

/-- What an object's pixel offers depends on the regions only (R195, R201). -/
theorem objPixel_of_mem {s u : State} (h : u.mem = s.mem) (o : ObjDesc) (c : Fin 240) (px py : Nat) :
    objPixel u o c px py = u.plotIndex c (objIndex s o px py) (objColor s o (objIndex s o px py)) s.bldCnt.topObj
      s.bldCnt.bottomObj := by
  cases hcm : o.cm <;>
    simp only [objPixel, objIndex, objColor, objTile, State.dispCnt, State.bldCnt, State.palette8, State.palette4,
      objTexel4_eq, objTexel8_eq, h, hcm] <;> rfl

theorem objPixel_mem (s : State) (o : ObjDesc) (c : Fin 240) (px py : Nat) : (objPixel s o c px py).mem = s.mem := by
  rw [objPixel_of_mem (s := s) rfl, State.plotIndex_mem]

/-- An object's pixels on different columns may be drawn in either order. -/
theorem objPixel_comm (s : State) (o : ObjDesc) {c d : Fin 240} (h : c ≠ d) (px py qx qy : Nat) :
    objPixel (objPixel s o c px py) o d qx qy = objPixel (objPixel s o d qx qy) o c px py := by
  rw [objPixel_of_mem (objPixel_mem s o c px py), objPixel_of_mem (objPixel_mem s o d qx qy),
    objPixel_of_mem (s := s) (u := s) rfl o c, objPixel_of_mem (s := s) (u := s) rfl o d, plotIndex_comm s h]

theorem regularColumn_mem (o : ObjDesc) (l : Fin 160) (s : State) (ix : Nat) :
    (regularColumn o l s ix).mem = s.mem := by
  unfold regularColumn
  split
  · rfl
  · exact objPixel_mem ..

/-- Box columns may be drawn in either order: they are different columns of the screen. -/
theorem regularColumn_comm (o : ObjDesc) (l : Fin 160) (s : State) (a b : Nat) :
    regularColumn o l (regularColumn o l s a) b = regularColumn o l (regularColumn o l s b) a := by
  by_cases hab : a = b
  · rw [hab]
  cases ha : o.col a with
  | none => simp only [regularColumn, ha]
  | some c =>
    cases hb : o.col b with
    | none => simp only [regularColumn, hb]
    | some d =>
      have hcd : c ≠ d := by
        rintro rfl
        have hc := screenCol_some ha
        have hd := screenCol_some hb
        omega
      simp only [regularColumn, ha, hb]
      exact objPixel_comm s o hcd ..

/-! ### The tile columns of a regular object -/

/-- The box's tile column that source tile column `j` is drawn in: a flip mirrors the tile columns (R196). -/
def boxTile (o : ObjDesc) (j : Nat) : Nat := if o.hf then o.w / 8 - 1 - j else j

/-- The box columns of source tile column `j`. -/
def boxTileCols (o : ObjDesc) (j : Nat) : List Nat := (List.range 8).map (8 * boxTile o j + ·)

/-- The source column of a box column: in the source tile column that is drawn there, at the flipped place in it
(R144, R196). -/
theorem regularSource_boxTile {o : ObjDesc} (hw : o.w % 8 = 0) {j : Nat} (hj : j < o.w / 8) (l : Fin 160) (i : Fin 8) :
    (regularSource o l (8 * boxTile o j + i.val)).1 / 8 = j ∧
      (regularSource o l (8 * boxTile o j + i.val)).1 % 8 = (if o.hf then i.rev else i).val := by
  cases hf : o.hf <;> simp only [regularSource, boxTile, hf, if_true, if_false, Bool.false_eq_true, Fin.val_rev] <;>
    omega

/-- A span's column is a box column, drawn per pixel (R145, R196). -/
theorem spanColumn_eq_regularColumn {o : ObjDesc} (hw : o.w % 8 = 0) {j : Nat} (hj : j < o.w / 8) (l : Fin 160)
    {s u : State} (h : u.mem = s.mem) (i : Fin 8) :
    spanColumn .obj (objTile s o j ((regularSource o l 0).2 / 8) * 32
        + ((regularSource o l 0).2 % 8) * (if o.cm then 8 else 4)) o.cm .obj o.pb (o.x + 8 * (boxTile o j : Int)) o.hf
        s.bldCnt.topObj s.bldCnt.bottomObj u i =
      regularColumn o l u (8 * boxTile o j + i.val) := by
  have hcol : o.col (8 * boxTile o j + i.val) = screenCol (o.x + 8 * (boxTile o j : Int) + i.val) :=
    congrArg screenCol (by omega)
  cases hc : screenCol (o.x + 8 * (boxTile o j : Int) + i.val) with
  | none => simp only [spanColumn_off_screen hc, regularColumn, hcol, hc]
  | some c =>
    obtain ⟨htile, hpixel⟩ := regularSource_boxTile hw hj l i
    simp only [spanColumn_on_screen hc, regularColumn, hcol, hc, objPixel, htile, State.objTexel8, State.objTexel4,
      hpixel, objTile, State.dispCnt, State.bldCnt, h]
    cases o.cm <;> rfl

/-- Drawing a tile column draws its box columns (R196). -/
theorem regularTileColumn_eq_foldl {o : ObjDesc} (hw : o.w % 8 = 0) {j : Nat} (hj : j < o.w / 8) (l : Fin 160)
    (s : State) : regularTileColumn o l s j = (boxTileCols o j).foldl (regularColumn o l) s := by
  rw [boxTileCols, ← List.map_coe_finRange_eq_range, List.map_map, List.foldl_map]
  refine (List.foldl_rel (r := fun u v => u = v ∧ u.mem = s.mem) ⟨rfl, rfl⟩ ?_).1
  rintro i - u _ ⟨rfl, hu⟩
  have hcolumn := spanColumn_eq_regularColumn hw hj l hu i
  exact ⟨hcolumn, (congrArg State.mem hcolumn).trans ((regularColumn_mem ..).trans hu)⟩

/-- The tile columns of the box are the source's, in order or mirrored (R196). -/
theorem map_boxTile_perm (o : ObjDesc) :
    ((List.range (o.w / 8)).map (boxTile o)).Perm (List.range (o.w / 8)) := by
  cases hf : o.hf with
  | false =>
    have hid : boxTile o = id := funext fun j => by simp [boxTile, hf]
    rw [hid, List.map_id]
  | true =>
    have hrev : (List.range (o.w / 8)).map (boxTile o) = (List.range (o.w / 8)).reverse := by
      refine List.ext_getElem (by simp) fun j _ _ => ?_
      simp [boxTile, hf]
    rw [hrev]
    exact List.reverse_perm _

/-- The tile columns' box columns are those of the box, each once (R196). -/
theorem flatMap_boxTileCols_perm {o : ObjDesc} (hw : o.w % 8 = 0) :
    ((List.range (o.w / 8)).flatMap (boxTileCols o)).Perm (List.range o.w) := by
  have hperm := (map_boxTile_perm o).flatMap_right fun k => (List.range 8).map (8 * k + ·)
  rwa [List.flatMap_map, flatMap_tile_positions, Nat.mul_div_cancel' (Nat.dvd_of_mod_eq_zero hw)] at hperm

/-- Settles O56: each tile column draws its box columns, these are together the columns of the box, and their order
makes no difference. -/
theorem regularObjectTilesEqualPixels : Obligations.RegularObjectTilesEqualPixels := by
  intro o l s hw
  symm
  calc drawRegularObjByTiles o l s
      = (List.range (o.w / 8)).foldl (fun u j => (boxTileCols o j).foldl (regularColumn o l) u) s :=
        List.foldl_ext _ _ s fun u j hj => regularTileColumn_eq_foldl hw (List.mem_range.1 hj) l u
    _ = ((List.range (o.w / 8)).flatMap (boxTileCols o)).foldl (regularColumn o l) s := List.foldl_flatMap.symm
    _ = drawRegularObj o l s :=
        (flatMap_boxTileCols_perm hw).foldl_eq' (fun a _ b _ u => regularColumn_comm o l u a b) s

end Sys2Proof.Machine
end

section
/-! SUPPORT. The start of a line in modes 0 to 2, the pick of the next draw step (R219–R223), and the two slots of a
Pixel (R216–R218). -/

namespace Sys2Proof.Machine

/-! ### The order layers are drawn in -/

/-- A layer's priority is its register's (R221). -/
theorem layerPrio_eq (s : State) (a : Layer) : s.layerPrio a = (s.bgCnt a.bg).prio := by
  cases a <;> rfl

/-- The key of R221. -/
theorem layerBefore_iff (s : State) (a b : Layer) :
    s.layerBefore a b = true ↔ (s.bgCnt a.bg).prio.toNat < (s.bgCnt b.bg).prio.toNat ∨
      (s.bgCnt a.bg).prio = (s.bgCnt b.bg).prio ∧ a.bg.val ≤ b.bg.val := by
  simp only [State.layerBefore, Bool.or_eq_true, Bool.and_eq_true, decide_eq_true_eq, layerPrio_eq]

/-- The key's order is total, and it is transitive, so a sort by it is in order. -/
theorem sortBy_layerBefore_pairwise (s : State) (lay : List Layer) :
    (sortBy s.layerBefore lay).Pairwise fun a b => s.layerBefore a b = true := by
  have htotal : Std.Total fun a b : Layer => s.layerBefore a b = true := ⟨fun a b => by
    simp only [layerBefore_iff, BitVec.toNat_eq]
    omega⟩
  have htrans : IsTrans Layer fun a b => s.layerBefore a b = true := ⟨fun a b c => by
    simp only [layerBefore_iff, BitVec.toNat_eq]
    omega⟩
  rw [sortBy_eq_insertionSort]
  exact List.pairwise_insertionSort _ lay

/-- A sort loses and adds nothing. -/
theorem sortBy_perm {α : Type} (before : α → α → Bool) (xs : List α) : (sortBy before xs).Perm xs := by
  rw [sortBy_eq_insertionSort]
  exact List.perm_insertionSort _ xs

/-- Layers of different indices are sorted strictly: the key never ties (R221). -/
theorem sortBy_layerBefore_strict (s : State) {lay : List Layer} (hne : lay.Pairwise fun a b => a.bg ≠ b.bg) :
    (sortBy s.layerBefore lay).Pairwise fun a b => (s.bgCnt a.bg).prio.toNat < (s.bgCnt b.bg).prio.toNat ∨
      (s.bgCnt a.bg).prio = (s.bgCnt b.bg).prio ∧ a.bg.val < b.bg.val := by
  have hne' := hne.perm (sortBy_perm s.layerBefore lay).symm Ne.symm
  refine ((sortBy_layerBefore_pairwise s lay).and hne').imp fun {a b} ⟨hab, hbg⟩ => ?_
  have hval : a.bg.val ≠ b.bg.val := fun e => hbg (Fin.ext e)
  exact ((layerBefore_iff s a b).1 hab).imp_right fun ⟨hp, hle⟩ => ⟨hp, lt_of_le_of_ne hle hval⟩

/-- Settles O11: both modes start the line with their own layers, sorted by the key of R221. -/
theorem modesZeroAndOneStartTheLine : Obligations.ModesZeroAndOneStartTheLine := by
  intro s l d i lay hs hi
  have hne : lay.Pairwise fun a b => a.bg ≠ b.bg := by
    rcases hi with ⟨-, rfl⟩ | ⟨-, rfl⟩ <;> decide
  have hexec : exec i s = startM01 lay d s := by
    rcases hi with ⟨rfl, rfl⟩ | ⟨rfl, rfl⟩ <;> rfl
  exact ⟨sortBy s.layerBefore lay, sortBy_perm _ lay, sortBy_layerBefore_strict s hne,
    hexec.trans (startM01_at hs lay d)⟩

/-- Settles O12: the two comparisons of priorities and the parameter give the order. -/
theorem modeTwoStartsTheLine : Obligations.ModeTwoStartsTheLine := by
  intro s l d hs
  have horder : mode2Layers s = if (s.bgCnt 2).prio.toNat < (s.bgCnt 3).prio.toNat ∨
      (s.bgCnt 2).prio.toNat = (s.bgCnt 3).prio.toNat ∧ s.cfg.mode2Tie = .bg2First
      then [.affine .bg2, .affine .bg3] else [.affine .bg3, .affine .bg2] := by
    simp only [mode2Layers, layerPrio_eq, Layer.bg, AffLayer.bg]
    obtain h | h | h := Nat.lt_trichotomy (s.bgCnt 2).prio.toNat (s.bgCnt 3).prio.toNat
    · rw [if_pos h, if_pos (.inl h)]
    · cases ht : s.cfg.mode2Tie <;> simp [h]
    · rw [if_neg h.asymm, if_pos h, if_neg (by omega)]
  rw [execMode2_at hs, horder]
  rfl

/-! ### The next draw step -/

/-- Layer `a` comes first: no object is pending, or the pending one's priority number is above the layer's (R221). -/
def State.LayerFirst (s : State) (a : Layer) : Prop :=
  ∀ o, s.objs[s.k]? = some o → (s.layerPrio a).toNat < o.prio.toNat

/-- An object whose priority is not above the next layer's is drawn before it (R221). -/
theorem pickDraw_obj {s : State} {o : ObjDesc} (ho : s.objs[s.k]? = some o) {ls : List Layer}
    (h : ∀ a, ls.head? = some a → o.prio.toNat ≤ (s.layerPrio a).toNat) : pickDraw s ls = (ls, some (.obj o)) := by
  cases ls with
  | nil => simp only [pickDraw, ho, Option.map_some]
  | cons a rest => simp only [pickDraw, ho, if_pos (h a rfl)]

/-- A layer that comes first is drawn if it is enabled, else passed over (R221, R227). -/
theorem pickDraw_layer {s : State} {a : Layer} (h : s.LayerFirst a) (rest : List Layer) :
    pickDraw s (a :: rest) =
      if s.layerEnabled a then (a :: rest, some (.layer a)) else pickDraw s rest := by
  cases ho : s.objs[s.k]? with
  | none => simp only [pickDraw, ho]
  | some o => simp only [pickDraw, ho, if_neg (Nat.not_le.2 (h o ho))]

/-- With no layer and no object left, nothing is drawn. -/
theorem pickDraw_none {s : State} (ho : s.objs[s.k]? = none) : pickDraw s [] = ([], none) := by
  simp only [pickDraw, ho, Option.map_none]

/-- Either the pending object comes before layer `a`, or the layer comes first. -/
theorem obj_or_layerFirst (s : State) (a : Layer) :
    (∃ o, s.objs[s.k]? = some o ∧ o.prio.toNat ≤ (s.layerPrio a).toNat) ∨ s.LayerFirst a := by
  by_cases h : ∃ o, s.objs[s.k]? = some o ∧ o.prio.toNat ≤ (s.layerPrio a).toNat
  · exact .inl h
  · exact .inr fun o ho => Nat.not_le.1 fun hle => h ⟨o, ho, hle⟩

/-- Which draw step is picked of the layers `rest`, none of them passed over: nothing, an object, or the first layer
(R221, R223, R227). -/
def State.Picks (s : State) (rest : List Layer) : Option DrawWhat → Prop
  | none => rest = [] ∧ s.objs[s.k]? = none
  | some (.obj o) => s.objs[s.k]? = some o ∧ ∀ a, rest.head? = some a → o.prio.toNat ≤ (s.layerPrio a).toNat
  | some (.layer a) => rest.head? = some a ∧ s.layerEnabled a = true ∧ s.LayerFirst a

/-- The pick passes over disabled layers that come first, and picks by the priorities. -/
theorem pickDraw_picks (s : State) (ls : List Layer) :
    ∃ skipped, ls = skipped ++ (pickDraw s ls).1 ∧ (∀ a ∈ skipped, s.layerEnabled a = false ∧ s.LayerFirst a) ∧
      s.Picks (pickDraw s ls).1 (pickDraw s ls).2 := by
  induction ls with
  | nil =>
    refine ⟨[], rfl, nofun, ?_⟩
    cases ho : s.objs[s.k]? with
    | none =>
      rw [pickDraw_none ho]
      exact ⟨rfl, ho⟩
    | some o =>
      rw [pickDraw_obj ho (ls := []) nofun]
      exact ⟨ho, nofun⟩
  | cons a rest ih =>
    obtain ⟨o, ho, hle⟩ | hfirst := obj_or_layerFirst s a
    · have hhead : ∀ b, (a :: rest).head? = some b → o.prio.toNat ≤ (s.layerPrio b).toNat := by
        rintro _ ⟨⟩
        exact hle
      rw [pickDraw_obj ho hhead]
      exact ⟨[], rfl, nofun, ho, hhead⟩
    · rw [pickDraw_layer hfirst]
      cases hen : s.layerEnabled a with
      | true => exact ⟨[], rfl, nofun, rfl, hen, hfirst⟩
      | false =>
        obtain ⟨skipped, hls, hskip, hpick⟩ := ih
        refine ⟨a :: skipped, congrArg (a :: ·) hls, fun b hb => ?_, hpick⟩
        obtain rfl | hb := List.mem_cons.1 hb
        · exact ⟨hen, hfirst⟩
        · exact hskip b hb

/-- Settles O14: the start of a draw step is what `pickDraw_picks` says is picked. -/
theorem nextDrawStepFollowsThePriorities : Obligations.NextDrawStepFollowsThePriorities := by
  intro s l j
  obtain ⟨skipped, hls, hskip, hpick⟩ := pickDraw_picks s s.layers
  simp only [State.LayerFirst, layerPrio_eq] at hskip
  refine ⟨skipped, _, _, hls, rfl, hskip, ?_⟩
  generalize pickDraw s s.layers = pick at hpick
  obtain ⟨rest, _ | o | a⟩ := pick <;> simp only [State.Picks, State.LayerFirst, layerPrio_eq] at hpick
  · exact .inl ⟨hpick.1, hpick.2, rfl⟩
  · exact .inr (.inl ⟨o, hpick.1, rfl, hpick.2⟩)
  · obtain ⟨hhead, hen, hfirst⟩ := hpick
    refine .inr (.inr ⟨a, hhead, hen, hfirst, ?_⟩)
    cases a with
    | text n => exact .inl ⟨n, rfl, rfl⟩
    | affine n => exact .inr ⟨n, rfl, rfl⟩

/-! ### The two slots of a Pixel -/

/-- Settles O37: the branches of SETCOLOR. -/
theorem setColorFillsTheTwoSlots : Obligations.SetColorFillsTheTwoSlots := by
  intro p col top bot
  refine ⟨fun h0 => if_pos h0, fun h1 ht => ?_, fun h1 ht => ?_, fun h2 => ?_⟩
  · cases bot <;> simp [setColor, h1, ht]
  · simp [setColor, h1, ht]
  · simp [setColor, h2]

/-- What FILLED says of a Pixel (R217). -/
theorem filled_iff (p : Pixel) : filled p = true ↔ p.n = 2 ∨ p.n = 1 ∧ p.t0 = false := by
  simp only [filled, Bool.or_eq_true, Bool.and_eq_true, decide_eq_true_eq, Bool.not_eq_true']

/-- A filled Pixel ignores every sequence of calls (R217). -/
theorem setColors_of_filled {p : Pixel} (h : filled p = true) (ws : List (Color15 × Bool × Bool)) :
    setColors p ws = p := by
  induction ws with
  | nil => rfl
  | cons w ws ih => rw [setColors, List.foldl_cons, setColor_of_filled h, ← setColors, ih]

/-- With one color in, a call leaves slot 0 alone and fills the Pixel (R216). -/
theorem setColor_of_ne_zero {p : Pixel} (h : p.n ≠ 0) (col : Color15) (top bot : Bool) :
    (setColor p col top bot).c0 = p.c0 ∧ (setColor p col top bot).t0 = p.t0 ∧
      filled (setColor p col top bot) = true := by
  obtain ⟨hn, -⟩ | ⟨-, -, -, e⟩ | ⟨-, -, -, e⟩ | ⟨-, hn, e⟩ := setColor_cases p col top bot
  · exact absurd hn h
  · rw [e]
    exact ⟨rfl, rfl, rfl⟩
  · rw [e]
    exact ⟨rfl, rfl, rfl⟩
  · rw [e, filled_iff]
    refine ⟨rfl, rfl, ?_⟩
    have h12 : p.n = 1 ∨ p.n = 2 := by omega
    exact h12.symm.imp_right fun h1 => ⟨h1, Bool.eq_false_iff.2 fun ht => hn ⟨h1, ht⟩⟩

/-- A call always leaves a color in (R216). -/
theorem setColor_n_ne_zero (p : Pixel) (col : Color15) (top bot : Bool) : (setColor p col top bot).n ≠ 0 := by
  obtain ⟨-, e⟩ | ⟨-, -, -, e⟩ | ⟨-, -, -, e⟩ | ⟨hn, -, e⟩ := setColor_cases p col top bot <;> rw [e]
  · exact nofun
  · exact nofun
  · exact nofun
  · exact hn

/-- Once one color is in, no sequence of calls changes slot 0 (R218): the first fills the Pixel. -/
theorem setColors_slot0 {p : Pixel} (h : p.n ≠ 0) (ws : List (Color15 × Bool × Bool)) :
    (setColors p ws).c0 = p.c0 ∧ (setColors p ws).t0 = p.t0 := by
  cases ws with
  | nil => exact ⟨rfl, rfl⟩
  | cons w ws =>
    obtain ⟨hc, ht, hf⟩ := setColor_of_ne_zero h w.1 w.2.1 w.2.2
    rw [setColors, List.foldl_cons, ← setColors, setColors_of_filled hf]
    exact ⟨hc, ht⟩

/-- Two calls fill a Pixel (R217). -/
theorem setColors_filled (p : Pixel) {ws : List (Color15 × Bool × Bool)} (h : 2 ≤ ws.length) :
    filled (setColors p ws) = true := by
  match ws, h with
  | v :: w :: ws, _ =>
    obtain ⟨-, -, hf⟩ := setColor_of_ne_zero (setColor_n_ne_zero p v.1 v.2.1 v.2.2) w.1 w.2.1 w.2.2
    rw [setColors, List.foldl_cons, List.foldl_cons, ← setColors, setColors_of_filled hf]
    exact hf

/-- Settles O38: a filled Pixel ignores the calls, and a call on a Pixel with one color fills it. -/
theorem filledPixelsNeverChange : Obligations.FilledPixelsNeverChange :=
  fun p ws => ⟨filled_iff p, fun h => setColors_of_filled h ws, fun h => setColors_slot0 h ws,
    fun h => congrArg Pixel.c1 (setColors_of_filled ((filled_iff p).2 (.inl h)) ws), setColors_filled p⟩

end Sys2Proof.Machine
end

section
/-! SUPPORT. The rules' drawing operations write the row and count the reads beyond VRAM, and nothing else; what they
write does not depend on the layers left or on the sequencer (R37, R221). -/

namespace Sys2Proof.Machine

open Reference

/-! ### Drawing operations -/

/-- A state with other layers left to draw and the sequencer elsewhere. -/
def State.placed (s : State) (ls : List Layer) (q : Seq) : State := (s.withLayers ls).goto q

theorem State.withLayers_self (s : State) : s.withLayers s.layers = s := rfl

/-- A state with another row and another count of the reads beyond VRAM. -/
def State.withDrawn (s : State) (row : Row) (n : Nat) : State := { s with row := row, oobReads := n }

/-- An operation that draws: it changes the row and the count of the reads beyond VRAM only, and does the same whatever
the layers left and the sequencer's position. -/
structure Draws (f : State → State) : Prop where
  placed : ∀ s ls q, f (s.placed ls q) = (f s).placed ls q
  frame : ∀ s, ∃ row n, f s = s.withDrawn row n

namespace Draws

variable {f g : State → State}

theorem sameInputs (h : Draws f) (s : State) : s.sameInputs (f s) := by
  obtain ⟨row, n, e⟩ := h.frame s
  rw [e]
  exact ⟨rfl, rfl, rfl, rfl, rfl, rfl, rfl⟩

theorem objs (h : Draws f) (s : State) : (f s).objs = s.objs := by
  obtain ⟨row, n, e⟩ := h.frame s
  rw [e]
  rfl

theorem cursor (h : Draws f) (s : State) : (f s).k = s.k := by
  obtain ⟨row, n, e⟩ := h.frame s
  rw [e]
  rfl

theorem layers (h : Draws f) (s : State) : (f s).layers = s.layers := by
  obtain ⟨row, n, e⟩ := h.frame s
  rw [e]
  rfl

theorem withLayers (h : Draws f) (s : State) (ls : List Layer) : f (s.withLayers ls) = (f s).withLayers ls := by
  obtain ⟨row, n, e⟩ := h.frame s
  have hseq : (f s).seq = s.seq := by rw [e]; rfl
  have hp := h.placed s ls s.seq
  rw [← hseq] at hp
  simpa only [State.placed, State.goto, State.withLayers, hseq] using hp

theorem goto (h : Draws f) (s : State) (q : Seq) : f (s.goto q) = (f s).goto q := by
  have hp := h.placed s s.layers q
  rw [← h.layers s] at hp
  simpa only [State.placed, State.goto, State.withLayers, h.layers s] using hp

protected theorem id : Draws fun s => s := ⟨fun _ _ _ => rfl, fun s => ⟨s.row, s.oobReads, rfl⟩⟩

theorem comp (hg : Draws g) (hf : Draws f) : Draws fun s => g (f s) where
  placed s ls q := by rw [hf.placed, hg.placed]
  frame s := by
    obtain ⟨row, n, e⟩ := hf.frame s
    obtain ⟨row', n', e'⟩ := hg.frame (f s)
    exact ⟨row', n', by rw [e', e]; rfl⟩

/-- So does a choice between two that does not depend on the layers left or the sequencer. -/
theorem ite {p : State → Bool} (hp : ∀ s ls q, p (s.placed ls q) = p s) (hf : Draws f) (hg : Draws g) :
    Draws fun s => if p s then f s else g s where
  placed s ls q := by
    rw [hp, hf.placed, hg.placed]
    split <;> rfl
  frame s := by
    split
    · exact hf.frame s
    · exact hg.frame s

/-- A loop of drawing operations draws. -/
theorem foldl {α : Type} {body : State → α → State} (h : ∀ c, Draws fun s => body s c) (cs : List α) :
    Draws fun s => cs.foldl body s := by
  induction cs with
  | nil => exact .id
  | cons c cs ih => exact ih.comp (h c)

end Draws

/-! ### Offering a texel draws -/

theorem plotIndex_placed (s : State) (ls : List Layer) (q : Seq) (c : Fin 240) (idx : Byte) (col : Color15)
    (top bot : Bool) : (s.placed ls q).plotIndex c idx col top bot = (s.plotIndex c idx col top bot).placed ls q := by
  unfold State.plotIndex
  split <;> rfl

theorem vramByte_placed (s : State) (ls : List Layer) (q : Seq) (off : Nat) :
    (s.placed ls q).vramByte off = ((s.vramByte off).1, (s.vramByte off).2.placed ls q) := by
  unfold State.vramByte
  split <;> rfl

theorem bgTexel4_placed (s : State) (ls : List Layer) (q : Seq) (cbb : BitVec 2) (tile : BitVec 10) (px py : Fin 8) :
    (s.placed ls q).bgTexel4 cbb tile px py =
      ((s.bgTexel4 cbb tile px py).1, (s.bgTexel4 cbb tile px py).2.placed ls q) := by
  simp only [State.bgTexel4, State.texel4, vramByte_placed]

theorem bgTexel8_placed (s : State) (ls : List Layer) (q : Seq) (cbb : BitVec 2) (tile : BitVec 10) (px py : Fin 8) :
    (s.placed ls q).bgTexel8 cbb tile px py =
      ((s.bgTexel8 cbb tile px py).1, (s.bgTexel8 cbb tile px py).2.placed ls q) := vramByte_placed s ls q _

theorem affTexel_placed (s : State) (ls : List Layer) (q : Seq) (base : Nat) (tile : BitVec 8) (fx fy : Fin 8) :
    (s.placed ls q).affTexel base tile fx fy =
      ((s.affTexel base tile fx fy).1, (s.affTexel base tile fx fy).2.placed ls q) := vramByte_placed s ls q _

/-- An index offered after at most one VRAM read changes the row and the count of reads only. -/
theorem plotIndex_withDrawn {s u : State} (hu : u = s ∨ u = s.countOob) (c : Fin 240) (idx : Byte) (col : Color15)
    (top bot : Bool) : ∃ row n, u.plotIndex c idx col top bot = s.withDrawn row n := by
  unfold State.plotIndex
  rcases hu with rfl | rfl <;> split <;> exact ⟨_, _, rfl⟩

/-! ### The rules' drawing operations -/

theorem textTexelColumn_placed (n : Fin 4) (s : State) (ls : List Layer) (q : Seq) (c : Fin 240) (tile : BitVec 10)
    (bank : BitVec 4) (px py : Fin 8) :
    textTexelColumn n (s.placed ls q) c tile bank px py = (textTexelColumn n s c tile bank px py).placed ls q := by
  have hd : (s.placed ls q).bgData n = s.bgData n := rfl
  cases hcd : (s.bgData n).cd <;>
    simp only [textTexelColumn, hd, hcd, if_true, if_false, Bool.false_eq_true, bgTexel8_placed, bgTexel4_placed,
      plotIndex_placed] <;> rfl

theorem textColumn_draws (n : Fin 4) (l : Fin 160) (c : Fin 240) : Draws fun s => textColumn n l s c where
  placed s ls q := textTexelColumn_placed n s ls q c _ _ _ _
  frame s := by
    refine plotIndex_withDrawn ?_ c _ _ _ _
    split <;> exact vramByte_state s _

theorem affTexelColumn_placed (n : AffLayer) (s : State) (ls : List Layer) (q : Seq) (c : Fin 240) (size tx ty : Nat) :
    affTexelColumn n (s.placed ls q) c size tx ty = (affTexelColumn n s c size tx ty).placed ls q := by
  simp only [affTexelColumn, affTexel_placed, plotIndex_placed]
  rfl

theorem affineColumn_draws (n : AffLayer) (l : Fin 160) (c : Fin 240) : Draws fun s => affineColumn n l s c where
  placed s ls q := by
    simp only [affineColumn_eq, affTexelColumn_placed, apply_ite (fun u : State => u.placed ls q)]
    rfl
  frame s := by
    rw [affineColumn_eq]
    dsimp only
    split
    · exact plotIndex_withDrawn (vramByte_state s _) c _ _ _ _
    · split
      · exact plotIndex_withDrawn (vramByte_state s _) c _ _ _ _
      · exact Draws.id.frame s

/-- Drawing a layer draws (R127, R174). -/
theorem drawLayer_draws (l : Fin 160) (a : Layer) : Draws fun s => drawLayer l s a := by
  cases a with
  | text n => exact .foldl (textColumn_draws n l) _
  | affine n => exact .foldl (affineColumn_draws n l) _

/-- So does drawing a layer if it is enabled (R227). -/
theorem drawEnabledLayer_draws (l : Fin 160) (a : Layer) :
    Draws fun s => if s.layerEnabled a then drawLayer l s a else s :=
  .ite (fun _ _ _ => rfl) (drawLayer_draws l a) .id

theorem objPixel_draws (o : ObjDesc) (c : Fin 240) (px py : Nat) : Draws fun s => objPixel s o c px py where
  placed s ls q := by
    rw [objPixel_of_mem (s := s) (u := s.placed ls q) rfl, objPixel_of_mem (s := s) rfl, plotIndex_placed]
  frame s := by
    rw [objPixel_of_mem (s := s) rfl]
    exact plotIndex_withDrawn (.inl rfl) c _ _ _ _

theorem regularColumn_draws (o : ObjDesc) (l : Fin 160) (ix : Nat) : Draws fun s => regularColumn o l s ix := by
  unfold regularColumn
  cases o.col ix with
  | none => exact .id
  | some c => exact objPixel_draws o c _ _

theorem affineObjColumn_draws (o : ObjDesc) (l : Fin 160) (ix : Nat) : Draws fun s => affineObjColumn o l s ix := by
  unfold affineObjColumn
  cases o.col ix with
  | none => exact .id
  | some c =>
    refine ⟨fun s ls q => ?_, fun s => ?_⟩
    · simp only [(objPixel_draws o c _ _).placed, apply_ite (fun u : State => u.placed ls q)]
      rfl
    · dsimp only
      split
      · exact (objPixel_draws o c _ _).frame s
      · exact Draws.id.frame s

/-- The body of an object's loop over its box columns, by its render mode (R192, R196, R200). -/
def objColumn (o : ObjDesc) (l : Fin 160) (s : State) (ix : Nat) : State :=
  if o.rm = 0 then regularColumn o l s ix else affineObjColumn o l s ix

theorem objColumn_draws (o : ObjDesc) (l : Fin 160) (ix : Nat) : Draws fun s => objColumn o l s ix := by
  unfold objColumn
  split
  · exact regularColumn_draws o l ix
  · exact affineObjColumn_draws o l ix

/-- DRAW_OBJ is the loop over the box columns, with the cursor moved (R192, R196, R200, R221). -/
theorem drawObj_eq (l : Fin 160) (s : State) (o : ObjDesc) :
    drawObj l s o = ((List.range o.bw).foldl (objColumn o l) s).withCursor (s.k + 1) := by
  have hloop : drawObj l s o = ((List.range o.bw).foldl (objColumn o l) s).withCursor
      (((List.range o.bw).foldl (objColumn o l) s).k + 1) := by
    unfold drawObj
    by_cases hrm : o.rm = 0
    · have hbody : objColumn o l = regularColumn o l := funext₂ fun _ _ => if_pos hrm
      have hbw : o.bw = o.w := if_neg (by rw [hrm]; decide)
      rw [if_pos hrm, hbody, hbw]
      rfl
    · have hbody : objColumn o l = affineObjColumn o l := funext₂ fun _ _ => if_neg hrm
      rw [if_neg hrm, hbody]
      rfl
  rw [hloop, (Draws.foldl (objColumn_draws o l) _).cursor]

theorem drawObj_sameInputs (l : Fin 160) (s : State) (o : ObjDesc) : s.sameInputs (drawObj l s o) := by
  obtain ⟨hcfg, hmem, hhost, hx2, hy2, hx3, hy3⟩ := (Draws.foldl (objColumn_draws o l) (List.range o.bw)).sameInputs s
  rw [drawObj_eq]
  exact ⟨hcfg, hmem, hhost, hx2, hy2, hx3, hy3⟩

theorem drawObj_objs (l : Fin 160) (s : State) (o : ObjDesc) : (drawObj l s o).objs = s.objs := by
  rw [drawObj_eq]
  exact (Draws.foldl (objColumn_draws o l) _).objs s

theorem drawObj_cursor (l : Fin 160) (s : State) (o : ObjDesc) : (drawObj l s o).k = s.k + 1 := by
  rw [drawObj_eq]
  rfl

end Sys2Proof.Machine
end

section
/-! SUPPORT. The steps of a draw step (R127, R174, R196, R200): a loop of steps does what the rules' loop does, for the
columns of a layer and the box columns of an object. -/

namespace Sys2Proof.Machine

open Reference

/-! ### Some number of steps -/

/-- Some number of steps lead from one state to another. -/
def LeadsTo (s t : State) : Prop := ∃ n, reaches n s t

namespace LeadsTo

variable {s t u : State}

theorem refl (s : State) : LeadsTo s s := ⟨0, rfl⟩

theorem head (h : step s = .next t) (h' : LeadsTo t u) : LeadsTo s u := by
  obtain ⟨n, hn⟩ := h'
  exact ⟨n + 1, t, h, hn⟩

theorem one (h : step s = .next t) : LeadsTo s t := head h (refl t)

theorem trans (h : LeadsTo s t) (h' : LeadsTo t u) : LeadsTo s u := by
  obtain ⟨n, hn⟩ := h
  induction n generalizing s with
  | zero => exact (show s = t from hn) ▸ h'
  | succ n ih =>
    obtain ⟨v, hv, hrest⟩ := hn
    exact head hv (ih hrest)

end LeadsTo

/-! ### A loop of steps -/

/-- What follows in the list of the numbers below `n`. -/
def nextBelow {n : Nat} (c : Fin n) : Option (Fin n) := if h : c.val + 1 < n then some ⟨c.val + 1, h⟩ else none

/-- In a list of all the numbers below `n`, what follows `c` is the next number, if there is one. -/
theorem head?_of_suffix_finRange {n : Nat} {c : Fin n} {rest : List (Fin n)} (h : c :: rest <:+ List.finRange n) :
    rest.head? = nextBelow c := by
  obtain ⟨done, hd⟩ := h
  have hget (i : Nat) : (done ++ c :: rest)[i]? = if hi : i < n then some ⟨i, hi⟩ else none := by
    rw [hd]
    split
    next hi => simp [hi]
    next hi => exact List.getElem?_eq_none (by rw [List.length_finRange]; omega)
  have hc := hget done.length
  have hnext := hget (done.length + 1)
  rw [List.getElem?_append_right (Nat.le_refl _), Nat.sub_self, List.getElem?_cons_zero] at hc
  rw [List.getElem?_append_right (by omega), Nat.add_sub_cancel_left, List.getElem?_cons_succ,
    ← List.head?_eq_getElem?] at hnext
  split at hc
  · cases hc
    exact hnext
  · cases hc

/-- Where a loop goes on: at the position of the next element, or finished after the last. -/
def loopOn {α : Type} (pos : α → Seq) (finish : State → State) (next : Option α) (s : State) : State :=
  next.elim (finish s) fun c => s.goto (pos c)

/-- A loop of steps over the numbers below `n`, with the regions `m`: from the position of each number, some steps do
the body and go on. The body and the end do not depend on the position, and the body keeps the regions. -/
structure StepLoop {n : Nat} (pos : Fin n → Seq) (body : State → Fin n → State) (finish : State → State)
    (m : Memory) : Prop where
  body_goto : ∀ c s q, body (s.goto q) c = (body s c).goto q
  body_mem : ∀ c s, (body s c).mem = s.mem
  finish_goto : ∀ s q, finish (s.goto q) = finish s
  steps : ∀ c s, s.mem = m → s.seq = pos c → LeadsTo s (loopOn pos finish (nextBelow c) (body s c))

namespace StepLoop

variable {n : Nat} {pos : Fin n → Seq} {body : State → Fin n → State} {finish : State → State} {m : Memory}

/-- The steps from the position of the first of the numbers left do the rest of the loop. -/
theorem leadsTo_rest (h : StepLoop pos body finish m) :
    ∀ (cs : List (Fin n)) (s : State), cs <:+ List.finRange n → s.mem = m →
      LeadsTo (loopOn pos finish cs.head? s) (finish (cs.foldl body s))
  | [], s, _, _ => .refl _
  | c :: rest, s, hcs, hm => by
    have hon : loopOn pos finish (nextBelow c) (body (s.goto (pos c)) c) =
        loopOn pos finish rest.head? (body s c) := by
      rw [head?_of_suffix_finRange hcs, h.body_goto]
      cases nextBelow c with
      | none => exact h.finish_goto _ _
      | some c' => rfl
    have hfirst := h.steps c (s.goto (pos c)) hm rfl
    rw [hon] at hfirst
    exact hfirst.trans
      (h.leadsTo_rest rest (body s c) ((List.suffix_cons c rest).trans hcs) ((h.body_mem c s).trans hm))

/-- The steps from the first position do the whole loop. -/
theorem leadsTo {s : State} (h : StepLoop pos body finish s.mem) (hn : 0 < n) :
    LeadsTo (s.goto (pos ⟨0, hn⟩)) (finish ((List.finRange n).foldl body s)) := by
  have hhead : (List.finRange n).head? = some ⟨0, hn⟩ := by
    rw [List.head?_eq_getElem?]
    simp [hn]
  have hloop := h.leadsTo_rest _ s (List.suffix_refl _) rfl
  rwa [hhead] at hloop

end StepLoop

/-! ### Layers -/

theorem endTextCol_eq_loopOn (s : State) (l : Fin 160) (j : Nat) (n : Fin 4) (c : Fin 240) :
    s.endTextCol l j n c =
      loopOn (fun c => .line l (.draw j (.textSize n c))) (·.endLayer l j) (nextBelow c) s := by
  unfold State.endTextCol
  change (match nextBelow c with | some c' => _ | none => _) = _
  cases nextBelow c <;> rfl

theorem endAffCol_eq_loopOn (s : State) (l : Fin 160) (j : Nat) (n : AffLayer) (c : Fin 240) :
    s.endAffCol l j n c =
      loopOn (fun c => .line l (.draw j (.affSize n c))) (·.endLayer l j) (nextBelow c) s := by
  unfold State.endAffCol
  change (match nextBelow c with | some c' => _ | none => _) = _
  cases nextBelow c <;> rfl

/-- The columns of a regular layer (R127). -/
theorem textColumn_stepLoop (l : Fin 160) (j : Nat) (n : Fin 4) (m : Memory) :
    StepLoop (fun c => .line l (.draw j (.textSize n c))) (textColumn n l) (·.endLayer l j) m where
  body_goto c s := (textColumn_draws n l c).goto s
  body_mem c s := ((textColumn_draws n l c).sameInputs s).mem
  finish_goto s q := endLayer_goto s q l j
  steps c s _ hs := by
    rw [← endTextCol_eq_loopOn]
    exact ⟨3, textColumn_steps hs⟩

/-- The columns of an affine layer (R174). -/
theorem affineColumn_stepLoop (l : Fin 160) (j : Nat) (n : AffLayer) (m : Memory) :
    StepLoop (fun c => .line l (.draw j (.affSize n c))) (affineColumn n l) (·.endLayer l j) m where
  body_goto c s := (affineColumn_draws n l c).goto s
  body_mem c s := ((affineColumn_draws n l c).sameInputs s).mem
  finish_goto s q := endLayer_goto s q l j
  steps c s _ hs := by
    rw [← endAffCol_eq_loopOn]
    obtain ⟨k, -, hk⟩ := affineColumn_steps hs
    exact ⟨k, hk⟩

/-- The steps of a layer's draw step draw the layer (R127, R174). -/
theorem drawLayer_leadsTo (s : State) (l : Fin 160) (j : Nat) (a : Layer) :
    LeadsTo (s.goto (.line l (startPhase j (some (.layer a))))) ((drawLayer l s a).endLayer l j) := by
  cases a with
  | text n => exact (textColumn_stepLoop l j n s.mem).leadsTo (by decide)
  | affine n => exact (affineColumn_stepLoop l j n s.mem).leadsTo (by decide)

/-! ### Objects -/

/-- A descriptor as the object scan makes it (R190, R192): its render mode and color depth are those of its OAM entry,
it is not hidden, and its box has a column. -/
structure ObjDesc.ReadFrom (o : ObjDesc) (m : Memory) : Prop where
  rm : o.rm = (Attr0.ofWord (m.read16 .oam (8 * o.idx.val))).rm
  cm : o.cm = (Attr0.ofWord (m.read16 .oam (8 * o.idx.val))).depth
  shown : o.rm ≠ 2
  box : 0 < o.bw

theorem endObjCol_goto (s : State) (q : Seq) (l : Fin 160) (j : Nat) (o : ObjDesc) (ix : Nat) :
    (s.goto q).endObjCol l j o ix = s.endObjCol l j o ix := by
  unfold State.endObjCol
  split
  · rfl
  · exact startDraw_goto (s.withCursor (s.k + 1)) q l (j + 1)

section Object

variable {s : State} {l : Fin 160} {j : Nat} {o : ObjDesc} {ix : Nat}

/-- The render mode of an object that is not hidden, at a box column: its kind of object, in its box (R192, R198). -/
theorem exec_decodeObjRender_draw (hs : s.seq = .line l (.draw j (.objRender o ix))) {w : Half}
    (hrm : o.rm = (Attr0.ofWord w).rm) (h2 : o.rm ≠ 2) :
    exec (decodeObjRender w) s =
      .next (if o.rm = 0 then regularObjCol s l j o ix else affineObjCol o.bw o.bh s l j o ix) := by
  obtain h | h | h | h := two_bit_cases (Attr0.ofWord w).rm <;>
    simp only [decodeObjRender, ObjDesc.bw, ObjDesc.bh, hrm, h]
  · exact execObjRegular_draw hs _
  · exact execObjAffine_draw hs _
  · exact absurd (hrm.trans h) h2
  · exact execObjAffineDouble_draw hs _

/-- The mapping selector's instruction numbers the pixel's tile by OBJMAP (R193). -/
theorem exec_decodeObjMapping {c : Fin 240} {px py : Nat} (hs : s.seq = .line l (.draw j (.objMap o ix c px py))) :
    exec (decodeObjMapping (s.mem.read16 .io 0x000)) s =
      .next (s.goto (.line l (.draw j (.objDepth o ix c (objTile s o (px / 8) (py / 8)) px py)))) := by
  have hd : s.dispCnt = DispCnt.ofWord (s.mem.read16 .io 0x000) := rfl
  cases h : (DispCnt.ofWord (s.mem.read16 .io 0x000)).objMap <;> simp only [decodeObjMapping, objTile, hd, h]
  · exact execObjMap2D_at hs _
  · exact execObjMap1D_at hs _

/-- The depth selector's instruction draws the pixel by the object's color depth (R195, R201). -/
theorem exec_decodeObjDepth {c : Fin 240} {px py : Nat}
    (hs : s.seq = .line l (.draw j (.objDepth o ix c (objTile s o (px / 8) (py / 8)) px py))) {w : Half}
    (hcm : o.cm = (Attr0.ofWord w).depth) :
    exec (decodeObjDepth w) s = .next ((objPixel s o c px py).endObjCol l j o ix) := by
  rw [objPixel_of_mem (s := s) rfl]
  cases h : (Attr0.ofWord w).depth <;>
    simp only [decodeObjDepth, h, objIndex, objColor, hcm, if_true, if_false, Bool.false_eq_true]
  · exact execObj4bpp_at hs _
  · exact execObj8bpp_at hs _

/-- The steps at an object's pixel draw it (R193, R195). -/
theorem objPixel_leadsTo (s : State) (l : Fin 160) (j ix : Nat) (c : Fin 240) (px py : Nat)
    (ho : o.ReadFrom s.mem) :
    LeadsTo (s.goto (.line l (.draw j (.objMap o ix c px py)))) ((objPixel s o c px py).endObjCol l j o ix) := by
  have hmap := (stepReadsEachSelectorFromItsWord (s.goto _) l (.draw j (.objMap o ix c px py)) rfl rfl).trans
    (exec_decodeObjMapping rfl)
  have hdepth := (stepReadsEachSelectorFromItsWord (s.goto _) l
    (.draw j (.objDepth o ix c (objTile s o (px / 8) (py / 8)) px py)) rfl rfl).trans (exec_decodeObjDepth rfl ho.cm)
  rw [(objPixel_draws o c px py).goto, endObjCol_goto] at hdepth
  exact .head hmap (.one hdepth)

theorem regularObjCol_leadsTo (s : State) (l : Fin 160) (j ix : Nat) (ho : o.ReadFrom s.mem) :
    LeadsTo (regularObjCol s l j o ix) ((regularColumn o l s ix).endObjCol l j o ix) := by
  unfold regularObjCol regularColumn
  cases o.col ix with
  | none => exact .refl _
  | some c => exact objPixel_leadsTo s l j ix c _ _ ho

theorem affineObjCol_leadsTo (s : State) (l : Fin 160) (j ix : Nat) (ho : o.ReadFrom s.mem) :
    LeadsTo (affineObjCol o.bw o.bh s l j o ix) ((affineObjColumn o l s ix).endObjCol l j o ix) := by
  unfold affineObjCol affineObjColumn
  cases o.col ix with
  | none => exact .refl _
  | some c =>
    dsimp only
    split
    · exact objPixel_leadsTo s l j ix c _ _ ho
    · exact .refl _

/-- The steps of a box column are the body of the object's loop (R196, R200). -/
theorem objColumn_leadsTo (hs : s.seq = .line l (.draw j (.objRender o ix))) (ho : o.ReadFrom s.mem) :
    LeadsTo s ((objColumn o l s ix).endObjCol l j o ix) := by
  refine .head ((stepReadsEachSelectorFromItsWord s l _ hs rfl).trans
    (exec_decodeObjRender_draw hs ho.rm ho.shown)) ?_
  unfold objColumn
  split
  · exact regularObjCol_leadsTo s l j ix ho
  · exact affineObjCol_leadsTo s l j ix ho

end Object

theorem endObjCol_eq_loopOn (s : State) (l : Fin 160) (j : Nat) (o : ObjDesc) (ix : Fin o.bw) :
    s.endObjCol l j o ix =
      loopOn (fun ix : Fin o.bw => .line l (.draw j (.objRender o ix))) (·.endObj l j) (nextBelow ix) s := by
  unfold State.endObjCol nextBelow
  split <;> rfl

/-- The box columns of an object (R196, R200). -/
theorem objColumn_stepLoop (l : Fin 160) (j : Nat) {o : ObjDesc} {m : Memory} (ho : o.ReadFrom m) :
    StepLoop (fun ix : Fin o.bw => .line l (.draw j (.objRender o ix))) (fun s ix => objColumn o l s ix)
      (·.endObj l j) m where
  body_goto ix s := (objColumn_draws o l ix).goto s
  body_mem ix s := ((objColumn_draws o l ix).sameInputs s).mem
  finish_goto s q := startDraw_goto (s.withCursor (s.k + 1)) q l (j + 1)
  steps ix s hm hs := by
    rw [← endObjCol_eq_loopOn]
    exact objColumn_leadsTo hs (hm ▸ ho)

/-- The steps of an object's draw step draw the object (R192, R196, R200). -/
theorem drawObj_leadsTo {s : State} {o : ObjDesc} (ho : o.ReadFrom s.mem) (l : Fin 160) (j : Nat) :
    LeadsTo (s.goto (.line l (startPhase j (some (.obj o))))) ((drawObj l s o).startDraw l (j + 1)) := by
  have hcols : (List.finRange o.bw).foldl (fun s (ix : Fin o.bw) => objColumn o l s ix) s =
      (List.range o.bw).foldl (objColumn o l) s := by
    rw [← List.map_coe_finRange_eq_range, List.foldl_map]
  have hloop := (objColumn_stepLoop l j ho).leadsTo ho.box
  rw [hcols] at hloop
  rw [drawObj_eq, ← (Draws.foldl (objColumn_draws o l) _).cursor s]
  exact hloop

end Sys2Proof.Machine
end

section
/-! SUPPORT. The draw steps of a line draw its layers and objects in the order of R221's loop. -/

namespace Sys2Proof.Machine

open Reference

/-! ### The draw steps -/

/-- A layer's priority is made of inputs (R221). -/
theorem State.sameInputs.layerPrio {s t : State} (h : s.sameInputs t) (a : Layer) : t.layerPrio a = s.layerPrio a := by
  simp only [layerPrio_eq, State.bgCnt, h.mem]

/-- So is its enable bit (R227). -/
theorem State.sameInputs.layerEnabled {s t : State} (h : s.sameInputs t) (a : Layer) :
    t.layerEnabled a = s.layerEnabled a := by
  simp only [State.layerEnabled, State.dispCnt, h.mem]

/-- DRAW_LINE_M01's loop draws an object whose priority is not above the next layer's (R221). -/
theorem drawInterleaved_obj {l : Fin 160} {s : State} {o : ObjDesc} {ls : List Layer}
    (h : ∀ a, ls.head? = some a → o.prio.toNat ≤ (s.layerPrio a).toNat) (os : List ObjDesc) :
    drawInterleaved l ls (o :: os) s = drawInterleaved l ls os (drawObj l s o) := by
  cases ls with
  | nil => rfl
  | cons a rest =>
    have hin := drawObj_sameInputs l s o
    simp only [drawInterleaved, drawObjsUpTo, if_pos (h a rfl), hin.layerPrio, hin.layerEnabled]

/-- It draws a layer that comes first, if the layer is enabled (R221, R227). -/
theorem drawInterleaved_layer {l : Fin 160} {s : State} {a : Layer} {os : List ObjDesc}
    (h : ∀ o, os.head? = some o → (s.layerPrio a).toNat < o.prio.toNat) (rest : List Layer) :
    drawInterleaved l (a :: rest) os s =
      drawInterleaved l rest os (if s.layerEnabled a then drawLayer l s a else s) := by
  cases os with
  | nil => rfl
  | cons o os => simp only [drawInterleaved, drawObjsUpTo, if_neg (Nat.not_le.2 (h o rfl))]

/-- Drawing the objects before a layer changes no input. -/
theorem drawObjsUpTo_sameInputs (l : Fin 160) (p : BitVec 2) (os : List ObjDesc) (s : State) :
    s.sameInputs (drawObjsUpTo l p os s).2 := by
  induction os generalizing s with
  | nil => exact .refl s
  | cons o os ih =>
    unfold drawObjsUpTo
    split
    · exact (drawObj_sameInputs l s o).trans (ih _)
    · exact .refl s

/-- Drawing a line's layers and objects changes no input. -/
theorem drawInterleaved_sameInputs (l : Fin 160) (ls : List Layer) (os : List ObjDesc) (s : State) :
    s.sameInputs (drawInterleaved l ls os s) := by
  induction ls generalizing os s with
  | nil => exact List.foldlRecOn os (drawObj l) (.refl s) fun u hu o _ => hu.trans (drawObj_sameInputs l u o)
  | cons a rest ih =>
    refine (drawObjsUpTo_sameInputs l (s.layerPrio a) os s).trans (State.sameInputs.trans ?_ (ih _ _))
    split
    · exact (drawLayer_draws l a).sameInputs _
    · exact .refl _

theorem pickDraw_withLayers (s : State) (ls ls' : List Layer) : pickDraw (s.withLayers ls') ls = pickDraw s ls := by
  induction ls with
  | nil => rfl
  | cons a rest ih =>
    simp only [pickDraw, State.withLayers_objs, State.withLayers_k, ih]
    rfl

/-- The start of a draw step with layers `ls` left, by what is picked. -/
theorem startDraw_withLayers (s : State) (ls : List Layer) (l : Fin 160) (j : Nat) :
    (s.withLayers ls).startDraw l j =
      (s.withLayers (pickDraw s ls).1).goto (.line l (startPhase j (pickDraw s ls).2)) := by
  simp only [State.startDraw, State.withLayers_layers, pickDraw_withLayers]
  rfl

theorem drawObj_withLayers (l : Fin 160) (s : State) (ls : List Layer) (o : ObjDesc) :
    drawObj l (s.withLayers ls) o = (drawObj l s o).withLayers ls := by
  simp only [drawObj_eq, (Draws.foldl (objColumn_draws o l) _).withLayers]
  rfl

/-- A draw step of the pending object draws it (R221). -/
theorem objDraw_leadsTo {s : State} {o : ObjDesc} {ls : List Layer} (ho : s.objs[s.k]? = some o)
    (hread : o.ReadFrom s.mem) (h : ∀ a, ls.head? = some a → o.prio.toNat ≤ (s.layerPrio a).toNat) (l : Fin 160)
    (j : Nat) :
    LeadsTo ((s.withLayers ls).startDraw l j) (((drawObj l s o).withLayers ls).startDraw l (j + 1)) := by
  rw [startDraw_withLayers s, pickDraw_obj ho h, ← drawObj_withLayers]
  exact drawObj_leadsTo (s := s.withLayers ls) hread l j

/-- A layer that comes first is drawn by a draw step, or passed over (R221, R227). -/
theorem layerDraw_leadsTo {s : State} {a : Layer} (h : s.LayerFirst a) (rest : List Layer) (l : Fin 160) (j : Nat) :
    ∃ j', LeadsTo ((s.withLayers (a :: rest)).startDraw l j)
      (((if s.layerEnabled a then drawLayer l s a else s).withLayers rest).startDraw l j') := by
  rw [startDraw_withLayers, pickDraw_layer h]
  split
  · refine ⟨j + 1, ?_⟩
    have hlayer := drawLayer_leadsTo (s.withLayers (a :: rest)) l j a
    rw [(drawLayer_draws l a).withLayers] at hlayer
    exact hlayer
  · refine ⟨j, ?_⟩
    rw [startDraw_withLayers]
    exact .refl _

/-- What the next draw step is: the pending object, the first layer, or none (R221). -/
theorem next_draw_cases (s : State) (ls : List Layer) :
    (∃ o, s.objs[s.k]? = some o ∧ ∀ a, ls.head? = some a → o.prio.toNat ≤ (s.layerPrio a).toNat) ∨
    (∃ a rest, ls = a :: rest ∧ s.LayerFirst a) ∨ (ls = [] ∧ s.objs[s.k]? = none) := by
  cases ls with
  | nil =>
    cases ho : s.objs[s.k]? with
    | none => exact .inr (.inr ⟨rfl, rfl⟩)
    | some o => exact .inl ⟨o, rfl, nofun⟩
  | cons a rest =>
    obtain ⟨o, ho, hle⟩ | hfirst := obj_or_layerFirst s a
    · exact .inl ⟨o, ho, fun b hb => Option.some.inj hb ▸ hle⟩
    · exact .inr (.inl ⟨a, rest, rfl, hfirst⟩)

/-- The draw steps of a line draw its layers `ls` and the objects from the cursor on, as R221's loop does, and lead to
COMPOSE with no layer left: by induction on the layers and objects left. -/
theorem drawInterleaved_leadsTo (l : Fin 160) (ls : List Layer) (s : State) (hread : ∀ o ∈ s.objs, o.ReadFrom s.mem)
    (j : Nat) :
    LeadsTo ((s.withLayers ls).startDraw l j)
      (((drawInterleaved l ls (s.objs.drop s.k) s).withLayers []).goto (.line l (.compose 0))) := by
  induction hleft : ls.length + (s.objs.length - s.k) using Nat.strong_induction_on generalizing ls s j with
  | _ left ih =>
    subst hleft
    obtain ⟨o, ho, h⟩ | ⟨a, rest, rfl, hfirst⟩ | ⟨rfl, hnone⟩ := next_draw_cases s ls
    · obtain ⟨hk, hget⟩ := List.getElem?_eq_some_iff.1 ho
      rw [List.drop_eq_getElem_cons hk, hget, drawInterleaved_obj h]
      have hrest := ih (ls.length + (s.objs.length - (s.k + 1))) (by omega) ls (drawObj l s o)
      rw [drawObj_objs, drawObj_cursor, (drawObj_sameInputs l s o).mem] at hrest
      exact (objDraw_leadsTo ho (hread o (List.mem_of_getElem? ho)) h l j).trans (hrest hread (j + 1) rfl)
    · have hhead : ∀ o, (s.objs.drop s.k).head? = some o → (s.layerPrio a).toNat < o.prio.toNat := by
        rw [List.head?_drop]
        exact hfirst
      have hdraws := drawEnabledLayer_draws l a
      obtain ⟨j', hdraw⟩ := layerDraw_leadsTo hfirst rest l j
      rw [drawInterleaved_layer hhead]
      have hrest := ih (rest.length + (s.objs.length - s.k)) (by simp) rest
        (if s.layerEnabled a then drawLayer l s a else s)
      rw [hdraws.objs, hdraws.cursor, (hdraws.sameInputs s).mem] at hrest
      exact hdraw.trans (hrest hread j' rfl)
    · rw [startDraw_withLayers, pickDraw_none hnone, List.drop_eq_nil_of_le (List.getElem?_eq_none_iff.1 hnone)]
      exact .refl _

end Sys2Proof.Machine
end

section
/-! SUPPORT. The steps of the object scan are SELECT_OBJECTS (R190), whose list holds objects as the draw steps expect
them. -/

namespace Sys2Proof.Machine

open Reference

/-! ### Operations that may raise a reason -/

/-- The state after an operation that may raise a reason: what follows it, or FAULT with the reason (R260, R268). -/
def thenOrRaise (follow : State → State) : Except (FatalReason × State) State → State
  | .ok s => follow s
  | .error (r, s) => s.raiseFatal r

theorem thenOrRaise_map (follow : State → State) (x : Except (FatalReason × State) State) (f : State → State) :
    thenOrRaise follow (x.map f) = thenOrRaise (fun s => follow (f s)) x := by
  cases x <;> rfl

theorem ok_of_map_ok {x : Except (FatalReason × State) State} {f : State → State} {t : State} (h : x.map f = .ok t) :
    ∃ u, x = .ok u ∧ t = f u := by
  cases x with
  | ok u => exact ⟨u, rfl, (Except.ok.inj h).symm⟩
  | error e => cases h

/-- Steps after an operation do not matter where it raised a reason. -/
theorem thenOrRaise_leadsTo {f g : State → State} {x : Except (FatalReason × State) State}
    (h : ∀ s, x = .ok s → LeadsTo (f s) (g s)) : LeadsTo (thenOrRaise f x) (thenOrRaise g x) := by
  cases x with
  | ok s => exact h s rfl
  | error e => exact .refl _

/-! ### The object scan -/

/-- An object is appended to the list if it is on the line (R189, R190). -/
def State.takeOnLine (s : State) (l : Fin 160) (o : ObjDesc) : State :=
  if o.onLine l then s.withObjs (s.objs ++ [o]) else s

/-- The body of SELECT_OBJECTS' loop (R190). -/
theorem selectEntry_eq (l : Fin 160) (s : State) (e : Fin 128) :
    selectEntry l s e =
      if (s.objKey e).a0.rm = 2 then .ok s
      else if (s.objKey e).a0.gfx = 2 then .ok s
      else if (s.objKey e).a0.gfx = 3 then .error .badObjMode
      else (sizeTable (s.objKey e).a0.shape (s.objKey e).a1.size).elim (.error .badObjShape) fun wh =>
        .ok (s.takeOnLine l (objDecode e (s.objKey e) (s.objAttr2 e) wh.1 wh.2)) := by
  unfold selectEntry
  dsimp only
  cases sizeTable (s.objKey e).a0.shape (s.objKey e).a1.size <;> rfl

/-- The size selector's instruction is the table's size, or the fault of shape 3 (R96, R188). -/
theorem exec_decodeObjSize {s : State} {l : Fin 160} {e : Fin 128} (hs : s.seq = .line l (.select (.size e)))
    (w0 w1 : Half) :
    exec (decodeObjSize w0 w1) s =
      (sizeTable (Attr0.ofWord w0).shape (Attr1.ofWord w1).size).elim (.next (s.raiseFatal .badObjShape))
        fun wh => sizedObj wh.1 wh.2 { a0 := Attr0.ofWord w0, a1 := Attr1.ofWord w1 } s := by
  obtain h0 | h0 | h0 | h3 := two_bit_cases (Attr0.ofWord w0).shape
  case inr.inr.inr =>
    rw [exec_decodeObjSize_of_shape_three hs h3]
    simp only [sizeTable, h3]
    rfl
  all_goals
    obtain h1 | h1 | h1 | h1 := two_bit_cases (Attr1.ofWord w1).size <;>
      simp only [decodeObjSize, sizeTable, h0, h1] <;> rfl

/-- The step at the size of an entry (R189, R190). -/
theorem step_scanSize (s : State) (l : Fin 160) (e : Fin 128) :
    step (s.goto (.line l (.select (.size e)))) =
      .next ((sizeTable (s.objKey e).a0.shape (s.objKey e).a1.size).elim (s.raiseFatal .badObjShape) fun wh =>
        (s.takeOnLine l (objDecode e (s.objKey e) (s.objAttr2 e) wh.1 wh.2)).endEntry l e) := by
  refine (stepReadsEachSelectorFromItsWord (s.goto _) l (.select (.size e)) rfl rfl).trans
    ((exec_decodeObjSize rfl _ _).trans ?_)
  change (sizeTable (s.objKey e).a0.shape (s.objKey e).a1.size).elim _ _ = _
  cases sizeTable (s.objKey e).a0.shape (s.objKey e).a1.size with
  | none => rfl
  | some wh =>
    refine (sizedObj_at (s := s.goto (.line l (.select (.size e)))) rfl wh.1 wh.2 (s.objKey e)).trans
      (congrArg Host.Outcome.next ?_)
    rw [Option.elim_some, ← endEntry_goto (s.takeOnLine l _) (.line l (.select (.size e))), State.takeOnLine,
      apply_ite (State.goto · _)]
    rfl

/-- The steps of an OAM entry are the body of SELECT_OBJECTS' loop (R190). -/
theorem selectEntry_leadsTo (s : State) (l : Fin 160) (e : Fin 128) :
    LeadsTo (s.goto (.line l (.select (.render e))))
      (thenOrRaise (·.endEntry l e) ((selectEntry l s e).mapError fun r => (r, s))) := by
  have hrender := step_scanRender (s := s.goto (.line l (.select (.render e)))) rfl
  have hgfx := step_scanGfx s l e
  have hsize := step_scanSize s l e
  rw [endEntry_goto] at hrender
  rw [selectEntry_eq]
  split
  next hrm => exact .one (hrender.trans (congrArg _ (if_pos hrm)))
  next hrm =>
    refine .head (hrender.trans (congrArg _ (if_neg hrm))) ?_
    split
    next h2 => exact .one (hgfx.trans (congrArg _ (if_pos h2)))
    next h2 =>
      have hgfx' := hgfx.trans (congrArg _ (if_neg h2))
      split
      next h3 => exact .one (hgfx'.trans (congrArg _ (if_pos h3)))
      next h3 =>
        refine .head (hgfx'.trans (congrArg _ (if_neg h3))) (.one (hsize.trans ?_))
        cases sizeTable (s.objKey e).a0.shape (s.objKey e).a1.size <;> rfl

theorem endEntry_eq_loopOn (s : State) (l : Fin 160) (e : Fin 128) :
    s.endEntry l e = loopOn (fun e => .line l (.select (.render e))) (·.endSelect l) (nextBelow e) s := by
  unfold State.endEntry
  change (match nextBelow e with | some e' => _ | none => _) = _
  cases nextBelow e <;> rfl

/-- The steps of the scan, from an entry on, are SELECT_OBJECTS' loop (R190). -/
theorem selectEntries_leadsTo (l : Fin 160) : ∀ (es : List (Fin 128)) (s : State), es <:+ List.finRange 128 →
    LeadsTo (loopOn (fun e => .line l (.select (.render e))) (·.endSelect l) es.head? s)
      (thenOrRaise (·.startDraw l 0) (selectEntries l es s))
  | [], s, _ => .refl _
  | e :: rest, s, hes => by
    have hentry := selectEntry_leadsTo s l e
    unfold selectEntries
    cases hsel : selectEntry l s e with
    | error r =>
      rw [hsel] at hentry
      exact hentry
    | ok s' =>
      rw [hsel] at hentry
      refine hentry.trans ?_
      change LeadsTo (s'.endEntry l e) _
      rw [endEntry_eq_loopOn, ← head?_of_suffix_finRange hes]
      exact selectEntries_leadsTo l rest s' ((List.suffix_cons e rest).trans hes)

/-- Every size of the table has a column (R96). -/
theorem sizeTable_width_pos : ∀ (shape size : BitVec 2), ∀ wh ∈ sizeTable shape size, 0 < wh.1 := by decide

/-- Selecting objects changes no input and keeps the layers to draw, the cursor is 0 where it was, and every object
of the list is as the scan makes it. -/
structure Selects (s t : State) : Prop where
  inputs : s.sameInputs t
  layers : t.layers = s.layers
  cursor : s.k = 0 → t.k = 0
  objs : (∀ o ∈ s.objs, o.ReadFrom s.mem) → ∀ o ∈ t.objs, o.ReadFrom t.mem

theorem Selects.refl (s : State) : Selects s s := ⟨.refl s, rfl, id, id⟩

theorem Selects.trans {s t u : State} (h : Selects s t) (h' : Selects t u) : Selects s u :=
  ⟨h.inputs.trans h'.inputs, h'.layers.trans h.layers, h'.cursor ∘ h.cursor, h'.objs ∘ h.objs⟩

/-- An object as the scan decodes it, if it is not hidden (R185, R186). -/
theorem objDecode_readFrom {s : State} {e : Fin 128} (hrm : (s.objKey e).a0.rm ≠ 2) (a2 : Attr2) {w h : Nat}
    (hw : 0 < w) : (objDecode e (s.objKey e) a2 w h).ReadFrom s.mem := by
  refine ⟨rfl, rfl, hrm, ?_⟩
  unfold ObjDesc.bw
  split
  · exact Nat.mul_pos (by decide) hw
  · exact hw

theorem takeOnLine_selects {s : State} {o : ObjDesc} (ho : o.ReadFrom s.mem) (l : Fin 160) :
    Selects s (s.takeOnLine l o) := by
  unfold State.takeOnLine
  split
  · refine ⟨⟨rfl, rfl, rfl, rfl, rfl, rfl, rfl⟩, rfl, id, fun h o' ho' => ?_⟩
    obtain ho' | ho' := List.mem_append.1 ho'
    · exact h o' ho'
    · exact List.mem_singleton.1 ho' ▸ ho
  · exact .refl s

theorem selectEntry_selects {l : Fin 160} {s t : State} {e : Fin 128} (h : selectEntry l s e = .ok t) :
    Selects s t := by
  rw [selectEntry_eq] at h
  split at h
  · cases h
    exact .refl s
  next hrm =>
    split at h
    · cases h
      exact .refl s
    · split at h
      · cases h
      · cases hwh : sizeTable (s.objKey e).a0.shape (s.objKey e).a1.size with
        | none =>
          rw [hwh] at h
          cases h
        | some wh =>
          rw [hwh] at h
          cases h
          exact takeOnLine_selects (objDecode_readFrom hrm _ (sizeTable_width_pos _ _ wh hwh)) l

theorem selectEntries_selects {l : Fin 160} {es : List (Fin 128)} {s t : State}
    (h : selectEntries l es s = .ok t) : Selects s t := by
  induction es generalizing s with
  | nil =>
    cases h
    exact ⟨⟨rfl, rfl, rfl, rfl, rfl, rfl, rfl⟩, rfl, fun _ => rfl,
      fun h o ho => h o ((sortBy_perm objBefore s.objs).mem_iff.1 ho)⟩
  | cons e rest ih =>
    unfold selectEntries at h
    cases hsel : selectEntry l s e with
    | error r =>
      rw [hsel] at h
      cases h
    | ok s' =>
      rw [hsel] at h
      exact (selectEntry_selects hsel).trans (ih h)

end Sys2Proof.Machine
end

section
/-! SUPPORT. LINE_STEP (R222) and RENDER_FRAME (R224): the mode dispatch (R219), COMPOSE_LINE (R248), the line hook's
writes (R70), and the statements that the steps add up to them. -/

namespace Sys2Proof.Machine

open Reference

/-! ### The line renderers -/

/-- The mode dispatch by DISPCNT.BGMODE (R219, R262). -/
theorem exec_decodeBgMode (w : Half) (s : State) :
    exec (decodeBgMode w) s =
      if (DispCnt.ofWord w).bgMode.toNat < 2 then startM01 (layersM01 (DispCnt.ofWord w).bgMode) (DispCnt.ofWord w) s
      else if (DispCnt.ofWord w).bgMode = 2 then exec (.mode2 (DispCnt.ofWord w)) s else badMode s := by
  obtain h | h | h | h | h | h | h | h := three_bit_cases (DispCnt.ofWord w).bgMode <;>
    simp only [decodeBgMode, h] <;> rfl

/-- At the start of a line, SELECT_OBJECTS is its loop, if objects are on (R190, R191). -/
theorem selectObjects_eq {s : State} (hobjs : s.objs = []) (hk : s.k = 0) (l : Fin 160) :
    selectObjects l s = if s.dispCnt.objEn then selectEntries l (List.finRange 128) s else .ok s := by
  have hs : (s.withObjs []).withCursor 0 = s := by
    rw [← hobjs, ← hk]
    rfl
  rw [selectObjects, hs]

theorem selectObjects_selects {l : Fin 160} {s t : State} (hobjs : s.objs = []) (hk : s.k = 0)
    (h : selectObjects l s = .ok t) : Selects s t := by
  rw [selectObjects_eq hobjs hk] at h
  split at h
  · exact selectEntries_selects h
  · cases h
    exact .refl s

/-- The steps of the object scan, which starts at entry 0 if objects are on, are SELECT_OBJECTS (R190, R191). -/
theorem selectObjects_leadsTo {s : State} (hobjs : s.objs = []) (hk : s.k = 0) (l : Fin 160) :
    LeadsTo (if s.dispCnt.objEn then s.goto (.line l (.select (.render 0))) else s.startDraw l 0)
      (thenOrRaise (·.startDraw l 0) (selectObjects l s)) := by
  rw [selectObjects_eq hobjs hk]
  split
  · exact selectEntries_leadsTo l (List.finRange 128) s (List.suffix_refl _)
  · exact .refl _

/-- The layers of modes 0 and 1 in draw order (R220, R221). -/
def State.orderM01 (s : State) : List Layer := sortBy s.layerBefore (layersM01 s.dispCnt.bgMode)

theorem drawLineM01_eq (l : Fin 160) (s : State) :
    drawLineM01 l s = (selectObjects l (s.withLayers s.orderM01)).map fun t =>
      (drawInterleaved l s.orderM01 t.objs t).withLayers [] := by
  unfold drawLineM01
  change (match selectObjects l (s.withLayers s.orderM01) with | .error e => _ | .ok t => _) = _
  cases selectObjects l (s.withLayers s.orderM01) <;> rfl

/-- From the mode dispatch to COMPOSE, the steps of a line of mode 0 or 1 are DRAW_LINE_M01 (R221). -/
theorem drawLineM01_leadsTo {s : State} (hobjs : s.objs = []) (hk : s.k = 0) (l : Fin 160) :
    LeadsTo (if s.dispCnt.objEn then (s.withLayers s.orderM01).goto (.line l (.select (.render 0)))
        else (s.withLayers s.orderM01).startDraw l 0)
      (thenOrRaise (·.goto (.line l (.compose 0))) (drawLineM01 l s)) := by
  rw [drawLineM01_eq, thenOrRaise_map]
  refine (selectObjects_leadsTo (s := s.withLayers s.orderM01) hobjs hk l).trans (thenOrRaise_leadsTo fun t ht => ?_)
  obtain ⟨-, hlayers, hcursor, hread⟩ := selectObjects_selects (s := s.withLayers s.orderM01) hobjs hk ht
  have hnone : ∀ o ∈ (s.withLayers s.orderM01).objs, o.ReadFrom s.mem := by
    rw [State.withLayers_objs, hobjs]
    exact nofun
  have hdraw := drawInterleaved_leadsTo l t.layers t (hread hnone) 0
  rw [hcursor hk, List.drop_zero, State.withLayers_self] at hdraw
  rwa [hlayers, State.withLayers_layers] at hdraw

/-- With no object, DRAW_LINE_M01's loop draws the enabled layers in order, as DRAW_LINE_M2's does (R221, R223). -/
theorem drawInterleaved_no_objs (l : Fin 160) (ls : List Layer) (s : State) :
    drawInterleaved l ls [] s = ls.foldl (fun s a => if s.layerEnabled a then drawLayer l s a else s) s := by
  induction ls generalizing s with
  | nil => rfl
  | cons a rest ih => exact ih _

/-- DRAW_LINE_M2 draws the two layers of the line (R223). -/
theorem drawLineM2_leadsTo {s : State} (hobjs : s.objs = []) (hlayers : s.layers = []) (l : Fin 160) :
    LeadsTo ((s.withLayers (mode2Layers s)).startDraw l 0) ((drawLineM2 l s).goto (.line l (.compose 0))) := by
  have hdraw := drawInterleaved_leadsTo l (mode2Layers s) s (by rw [hobjs]; exact nofun) 0
  rw [hobjs, List.drop_nil, drawInterleaved_no_objs] at hdraw
  have hkept := (Draws.foldl (drawEnabledLayer_draws l) (mode2Layers s)).layers s
  rw [hlayers] at hkept
  rwa [← hkept, State.withLayers_self] at hdraw

/-- From the start of a line to COMPOSE, its steps are LINE_STEP's drawing (R219, R222). -/
theorem drawLine_leadsTo {s : State} {l : Fin 160} (hs : s.seq = .line l (.select .mode)) (hd : s.noHookDue) :
    LeadsTo s (thenOrRaise (·.goto (.line l (.compose 0))) (drawLine l s)) := by
  have hstep := (stepReadsEachSelectorFromItsWord s l _ hs (hd l _ hs)).trans (exec_decodeBgMode _ s)
  unfold drawLine
  dsimp only
  split
  next h01 =>
    exact .head (hstep.trans ((if_pos h01).trans (startM01_at hs _ _)))
      (drawLineM01_leadsTo (s := s.startLine) rfl rfl l)
  next h01 =>
    have hstep' := hstep.trans (if_neg h01)
    split
    next h2 =>
      exact .head (hstep'.trans ((if_pos h2).trans (execMode2_at hs _)))
        (drawLineM2_leadsTo (s := s.startLine) rfl rfl l)
    next h2 => exact .one (hstep'.trans ((if_neg h2).trans (badMode_at hs)))

/-! ### Composing -/

/-- The blend mode's instruction composes the column by GETCOLOR (R240, R243–R246). -/
theorem exec_decodeBlendMode (s : State) :
    exec (decodeBlendMode (s.mem.read16 .io 0x050)) s = composeCol (getColor s) s := by
  have hb : s.bldCnt = BldCnt.ofWord (s.mem.read16 .io 0x050) := rfl
  have hcolor : getColor s = fun p => getColor s p := rfl
  obtain h | h | h | h := two_bit_cases (BldCnt.ofWord (s.mem.read16 .io 0x050)).mode <;>
    simp only [decodeBlendMode, hcolor, getColor, hb, h] <;> rfl

theorem endCompose_eq_loopOn (s : State) (l : Fin 160) (c : Fin 240) :
    s.endCompose l c = loopOn (fun c => .line l (.compose c)) (·.goto (seqAfter l)) (nextBelow c) s := by
  unfold State.endCompose seqAfter
  change (match nextBelow c with | some c' => _ | none => _) = _
  cases nextBelow c with
  | none => cases nextLine l <;> rfl
  | some c' => rfl

/-- The columns of a line composed (R248). -/
theorem compose_stepLoop (l : Fin 160) (m : Memory) :
    StepLoop (fun c => .line l (.compose c)) (fun s c => s.frameWrite l c (getColor s (s.pixel c)))
      (·.goto (seqAfter l)) m where
  body_goto _ _ _ := rfl
  body_mem _ _ := rfl
  finish_goto _ _ := rfl
  steps c s _ hs := by
    rw [← endCompose_eq_loopOn]
    exact .one ((stepReadsEachSelectorFromItsWord s l _ hs rfl).trans
      ((exec_decodeBlendMode s).trans (composeCol_at hs _)))

/-- The steps of COMPOSE are COMPOSE_LINE, and lead to what follows the line (R222, R224, R248). -/
theorem composeLine_leadsTo (s : State) (l : Fin 160) :
    LeadsTo (s.goto (.line l (.compose 0))) ((composeLine l s).goto (seqAfter l)) :=
  (compose_stepLoop l s.mem).leadsTo (by decide)

/-! ### A line -/

theorem lineStep_eq (l : Fin 160) (s : State) : lineStep l s = (drawLine l s).map (composeLine l) := by
  unfold lineStep
  cases drawLine l s <;> rfl

theorem lineResult_eq (l : Fin 160) (s : State) :
    lineResult l s = thenOrRaise (·.goto (seqAfter l)) (lineStep l s) := by
  unfold lineResult
  cases lineStep l s <;> rfl

/-- The steps of a line are LINE_STEP (R222). -/
theorem lineResult_leadsTo {s : State} {l : Fin 160} (hs : s.seq = .line l (.select .mode)) (hd : s.noHookDue) :
    LeadsTo s (lineResult l s) := by
  rw [lineResult_eq, lineStep_eq, thenOrRaise_map]
  exact (drawLine_leadsTo hs hd).trans (thenOrRaise_leadsTo fun t _ => composeLine_leadsTo t l)

/-- Settles O58: the steps of the mode dispatch, the object scan, the draw steps and COMPOSE, one after the other. -/
theorem lineIsTheRulesLineStep : Obligations.LineIsTheRulesLineStep := fun _ _ hs hd => lineResult_leadsTo hs hd

/-! ### A frame -/

theorem drawLine_sameInputs {l : Fin 160} {s t : State} (h : drawLine l s = .ok t) : s.sameInputs t := by
  unfold drawLine at h
  dsimp only at h
  refine State.sameInputs.trans (t := s.startLine) ⟨rfl, rfl, rfl, rfl, rfl, rfl, rfl⟩ ?_
  split at h
  · rw [drawLineM01_eq] at h
    obtain ⟨u, hsel, rfl⟩ := ok_of_map_ok h
    obtain ⟨hcfg, hmem, hhost, hx2, hy2, hx3, hy3⟩ :=
      (selectObjects_selects (s := s.startLine.withLayers s.startLine.orderM01) rfl rfl hsel).inputs.trans
        (drawInterleaved_sameInputs l s.startLine.orderM01 u.objs u)
    exact ⟨hcfg, hmem, hhost, hx2, hy2, hx3, hy3⟩
  · split at h
    · cases h
      exact (Draws.foldl (drawEnabledLayer_draws l) _).sameInputs _
    · cases h

theorem composeLine_sameInputs (l : Fin 160) (s : State) : s.sameInputs (composeLine l s) := by
  unfold composeLine overColumns
  exact List.foldlRecOn (motive := s.sameInputs) _ _ (.refl s) fun u hu c _ =>
    hu.trans ⟨rfl, rfl, rfl, rfl, rfl, rfl, rfl⟩

theorem lineStep_sameInputs {l : Fin 160} {s t : State} (h : lineStep l s = .ok t) : s.sameInputs t := by
  rw [lineStep_eq] at h
  obtain ⟨u, hdraw, rfl⟩ := ok_of_map_ok h
  exact (drawLine_sameInputs hdraw).trans (composeLine_sameInputs l u)

/-- The line hook's writes before line `l`, made by steps from `s`, lead to `t`, at the start of the line with none
due (R70). -/
structure HookMade (l : Fin 160) (s t : State) : Prop where
  steps : LeadsTo s t
  keeps : s.Keeps t
  seq : t.seq = .line l (.select .mode)
  noneDue : t.noHookDue

theorem hookMade_of_none_due {l : Fin 160} {s : State} (hs : s.seq = .line l (.select .mode))
    (h : s.hookDue l (.select .mode) = none) : HookMade l s s where
  steps := .refl s
  keeps := ⟨rfl, List.suffix_refl _, fun _ => ⟨rfl, rfl⟩⟩
  seq := hs
  noneDue l' ph hs' := by
    rw [hs] at hs'
    cases hs'
    exact h

/-- The hook's writes at the head of the host's program are made one a step (R70). -/
theorem hookWrites_made {l : Fin 160} {s : State} (hs : s.seq = .line l (.select .mode))
    (hon : s.cfg.lineHook = true) (hl : s.hooksLegal s.host) : HookMade l s (hookWrites l s.host s) := by
  induction hh : s.host generalizing s with
  | nil => exact hookMade_of_none_due hs (by simp only [State.hookDue, hh])
  | cons m rest ih =>
    cases m with
    | write | sink | render => exact hookMade_of_none_due hs (by simp only [State.hookDue, hh])
    | hook l' w =>
      unfold hookWrites
      split
      next hl' =>
        have hw : w.legal := hl hon l' w (by simp [hh])
        have hdue : s.hookDue l (.select .mode) = some (w, s.withHost rest) := by
          simp only [State.hookDue, hh, hon, hl', and_self, if_true]
        have hstep : step s = .next ((s.withMem (w.store s.mem)).withHost rest) :=
          (step_of_hookDue hs hdue).trans ((hostWrite_legal _ _ _).2 ⟨hw, rfl⟩)
        have hkeeps : s.Keeps ((s.withMem (w.store s.mem)).withHost rest) :=
          ⟨rfl, hh ▸ List.suffix_cons _ rest, fun hoff => by simp [hon] at hoff⟩
        obtain ⟨hsteps, hkeeps', hseq, hnone⟩ := ih (s := (s.withMem (w.store s.mem)).withHost rest) hs hon
          (hkeeps.hooksLegal hl) rfl
        exact ⟨.head hstep hsteps, hkeeps.trans hkeeps', hseq, hnone⟩
      next hl' => exact hookMade_of_none_due hs (by simp only [State.hookDue, hh, hl', and_false, if_false])

/-- The steps before a line are the hook's writes, if the hook is on (R70). -/
theorem beforeLine_made {l : Fin 160} {s : State} (hs : s.seq = .line l (.select .mode))
    (hl : s.hooksLegal s.host) : HookMade l s (beforeLine l s) := by
  unfold beforeLine
  split
  next hon => exact hookWrites_made hs hon hl
  next hoff =>
    refine hookMade_of_none_due hs ?_
    cases hdue : s.hookDue l (.select .mode) with
    | none => rfl
    | some due => exact absurd (hookDue_some hdue).2.1 hoff

/-- The steps of a request, from the start of a line on, are the loop of RENDER_FRAME (R224). -/
theorem renderLines_leadsTo : ∀ (ls : List (Fin 160)) (s : State), ls <:+ List.finRange 160 →
    (∀ l, ls.head? = some l → s.seq = .line l (.select .mode)) → s.hooksLegal s.host → LeadsTo s (renderLines ls s)
  | [], s, _, _, _ => .refl s
  | l :: rest, s, hls, hs, hl => by
    obtain ⟨hhook, hkeeps, hseq, hnone⟩ := beforeLine_made (hs l rfl) hl
    have hline := hhook.trans (lineResult_leadsTo hseq hnone)
    rw [lineResult_eq] at hline
    unfold renderLines
    cases hstep : lineStep l (beforeLine l s) with
    | error e =>
      rw [hstep] at hline
      exact hline
    | ok t =>
      rw [hstep] at hline
      refine hline.trans (renderLines_leadsTo rest (t.goto (seqAfter l)) ((List.suffix_cons l rest).trans hls)
        (fun l' hl' => ?_) ((hkeeps.trans (lineStep_sameInputs hstep).keeps).hooksLegal hl))
      have hnext : nextLine l = some l' := (head?_of_suffix_finRange hls).symm.trans hl'
      rw [State.goto_seq, seqAfter, hnext]

/-- Settles O59: RENDER's step starts the frame, and the steps after it are the loop over the lines. -/
theorem frameIsTheRulesRenderFrame : Obligations.FrameIsTheRulesRenderFrame :=
  fun s rest h hl => LeadsTo.head (step_of_asksForAFrame h)
    (renderLines_leadsTo (List.finRange 160) (s.withHost rest).startFrame (List.suffix_refl _)
      (fun l hl => by cases hl; rfl) hl)

end Sys2Proof.Machine
end

section
/-! SUPPORT. The blender (R241–R248): the coefficients as numbers, BLEND channel by channel, and the color GETCOLOR
answers for each kind of Pixel. -/

namespace Sys2Proof.Machine

variable {s : State} {l : Fin 160} {c : Fin 240} {p : Pixel} {bd target : Color15}

/-! ### The coefficients -/

/-- A coefficient is a field of five bits, clamped (R241). -/
theorem clampCoef_extract (w : Half) (start : Nat) :
    clampCoef (w.extractLsb' start 5) = min (w.toNat / 2 ^ start % 32) 16 := by
  rw [clampCoef, BitVec.extractLsb'_toNat, Nat.shiftRight_eq_div_pow]

theorem eva_eq (s : State) : s.eva = min ((s.mem.read16 .io 0x052).toNat % 32) 16 :=
  (clampCoef_extract _ 0).trans (by rw [Nat.pow_zero, Nat.div_one, State.bldAlpha])

theorem evb_eq (s : State) : s.evb = min ((s.mem.read16 .io 0x052).toNat / 256 % 32) 16 := clampCoef_extract _ 8

theorem evy_eq (s : State) : s.evy = min ((s.mem.read16 .io 0x054).toNat % 32) 16 :=
  (clampCoef_extract _ 0).trans (by rw [Nat.pow_zero, Nat.div_one, State.bldY])

theorem evy_le (s : State) : s.evy ≤ 16 := Nat.min_le_right _ _

/-- The two coefficients of a fade make one whole (R245). -/
theorem fade_coefs (s : State) : 16 - s.evy + s.evy = 16 := Nat.sub_add_cancel (evy_le s)

/-- Settles O40: each coefficient is the clamp of its field. -/
theorem coefficientsAreClampedToOne : Obligations.CoefficientsAreClampedToOne :=
  fun s => ⟨eva_eq s, evb_eq s, evy_eq s⟩

/-! ### BLEND -/

@[simp] theorem red_pack (r g b : BitVec 5) : red (pack r g b) = r := by
  apply BitVec.eq_of_toNat_eq
  rw [red_toNat, pack_toNat]
  omega

@[simp] theorem green_pack (r g b : BitVec 5) : green (pack r g b) = g := by
  apply BitVec.eq_of_toNat_eq
  rw [green_toNat, pack_toNat]
  omega

@[simp] theorem blue_pack (r g b : BitVec 5) : blue (pack r g b) = b := by
  apply BitVec.eq_of_toNat_eq
  rw [blue_toNat, pack_toNat]
  omega

/-- A color has three channels (R156). -/
theorem channel_cases {ch : Color15 → BitVec 5} (hch : ch ∈ [red, green, blue]) :
    ch = red ∨ ch = green ∨ ch = blue := by
  simpa only [List.mem_cons, List.not_mem_nil, or_false] using hch

/-- The lanes are independent: a channel of the blend is the blend of that channel (R242). -/
theorem channel_blend {ch : Color15 → BitVec 5} (hch : ch ∈ [red, green, blue]) (a b : Color15) (ca cb : Nat) :
    ch (blend a b ca cb) = blendChannel (ch a) (ch b) ca cb := by
  obtain rfl | rfl | rfl := channel_cases hch
  exacts [red_pack .., green_pack .., blue_pack ..]

theorem blendChannel_toNat (x y : BitVec 5) (ca cb : Nat) :
    (blendChannel x y ca cb).toNat = min ((x.toNat * ca + y.toNat * cb) / 16) 31 :=
  (BitVec.toNat_ofNat _ 5).trans (Nat.mod_eq_of_lt (by omega))

/-- Each product is at most 31 times its coefficient, which bounds the sum of both before it is saturated (R242). -/
theorem blendSum_le (x y : BitVec 5) (ca cb : Nat) : x.toNat * ca + y.toNat * cb ≤ 31 * (ca + cb) := by
  have hx : x.toNat * ca ≤ 31 * ca := Nat.mul_le_mul_right ca (Nat.le_of_lt_succ x.isLt)
  have hy : y.toNat * cb ≤ 31 * cb := Nat.mul_le_mul_right cb (Nat.le_of_lt_succ y.isLt)
  omega

/-- Coefficients that make one whole need no saturation (R247). -/
theorem blendChannel_toNat_of_whole {ca cb : Nat} (h : ca + cb = 16) (x y : BitVec 5) :
    (blendChannel x y ca cb).toNat = (x.toNat * ca + y.toNat * cb) / 16 := by
  have hle := blendSum_le x y ca cb
  rw [blendChannel_toNat]
  exact Nat.min_eq_left (by omega)

/-- Settles O41: `channel_blend` with the channel's value and the bound of its sum. -/
theorem blendSaturatesEachChannel : Obligations.BlendSaturatesEachChannel := by
  intro a b ca cb hca hcb ch hch
  have hle := blendSum_le (ch a) (ch b) ca cb
  rw [channel_blend hch]
  exact ⟨blendChannel_toNat .., by omega, fun h => blendChannel_toNat_of_whole h ..⟩

/-! ### Fades -/

/-- Every channel of white is full (R245). -/
theorem channel_white {ch : Color15 → BitVec 5} (hch : ch ∈ [red, green, blue]) : (ch 0x7FFF).toNat = 31 := by
  obtain rfl | rfl | rfl := channel_cases hch
  exacts [red_toNat _, green_toNat _, blue_toNat _]

/-- Every channel of black is empty (R246). -/
theorem channel_black {ch : Color15 → BitVec 5} (hch : ch ∈ [red, green, blue]) : (ch 0x0000).toNat = 0 := by
  obtain rfl | rfl | rfl := channel_cases hch
  exacts [red_toNat _, green_toNat _, blue_toNat _]

/-- What is left of a floored fade to black is the channel less the fraction rounded up (R246). -/
theorem scaled_down_eq_sub (x : Nat) {e : Nat} (he : e ≤ 16) : x * (16 - e) / 16 = x - (x * e + 15) / 16 := by
  have hsub : x * (16 - e) = x * 16 - x * e := Nat.mul_sub ..
  have hle : x * e ≤ x * 16 := Nat.mul_le_mul_left x he
  omega

theorem channel_fade_white {ch : Color15 → BitVec 5} (hch : ch ∈ [red, green, blue]) (s : State) (col : Color15) :
    (ch (blend col 0x7FFF (16 - s.evy) s.evy)).toNat = ((ch col).toNat * (16 - s.evy) + 31 * s.evy) / 16 := by
  rw [channel_blend hch, blendChannel_toNat_of_whole (fade_coefs s), channel_white hch]

theorem channel_fade_black {ch : Color15 → BitVec 5} (hch : ch ∈ [red, green, blue]) (s : State) (col : Color15) :
    (ch (blend col 0x0000 (16 - s.evy) s.evy)).toNat = (ch col).toNat - ((ch col).toNat * s.evy + 15) / 16 := by
  rw [channel_blend hch, blendChannel_toNat_of_whole (fade_coefs s), channel_black hch, Nat.zero_mul, Nat.add_zero,
    scaled_down_eq_sub _ (evy_le s)]

/-! ### GETCOLOR -/

/-- The topmost color is the backdrop only of an empty Pixel (R243). -/
theorem topColor_eq (p : Pixel) (bd : Color15) : topColor p bd = if p.n = 0 then bd else p.c0 := by
  unfold topColor
  split
  next hn => rw [if_neg (fun h0 => by simp [h0] at hn)]
  next hn => rw [if_pos (Fin.ext (by simpa using hn))]

section Alpha
variable {bdB : Bool} {eva evb : Nat}

theorem getColorAlpha_both {c1 : Color15} (hn : p.n = 2) (hc1 : p.c1 = some c1) :
    getColorAlpha p bd bdB eva evb = blend p.c0 c1 eva evb := by
  rw [getColorAlpha, hn, hc1]
  rfl

/-- A second layer that is not bottom-eligible leaves no color to blend with (R216, R244). -/
theorem getColorAlpha_dropped (hn : p.n = 2) (hc1 : p.c1 = none) : getColorAlpha p bd bdB eva evb = p.c0 := by
  have htop : getColorAlpha p bd bdB eva evb = topColor p bd := by
    rw [getColorAlpha, hn, hc1]
    rfl
  rw [htop, topColor_eq, if_neg (by simp [hn])]

theorem getColorAlpha_one (hn : p.n = 1) :
    getColorAlpha p bd bdB eva evb = if p.t0 && bdB then blend p.c0 bd eva evb else p.c0 := by
  rw [getColorAlpha, hn]
  rfl

theorem getColorAlpha_backdrop (hn : p.n = 1) (ht : p.t0 = true) (hb : bdB = true) :
    getColorAlpha p bd bdB eva evb = blend p.c0 bd eva evb := by
  rw [getColorAlpha_one hn, if_pos (by rw [ht, hb, Bool.and_self])]

theorem getColorAlpha_single (hn : p.n = 1) (hoff : p.t0 = false ∨ bdB = false) :
    getColorAlpha p bd bdB eva evb = p.c0 := by
  rw [getColorAlpha_one hn, (Bool.and_eq_false_iff).2 hoff, if_neg Bool.false_ne_true]

theorem getColorAlpha_empty (hn : p.n = 0) : getColorAlpha p bd bdB eva evb = bd := by
  have htop : getColorAlpha p bd bdB eva evb = topColor p bd := by
    rw [getColorAlpha, hn]
    rfl
  rw [htop, topColor_eq, if_pos hn]

end Alpha

theorem getColorFade_written {bdT : Bool} {evy : Nat} (hn : p.n ≠ 0) :
    getColorFade target p bd bdT evy = blend p.c0 target (16 - evy) evy :=
  if_pos (Nat.one_le_iff_ne_zero.2 (fun h => hn (Fin.ext h)))

theorem getColorFade_empty {bdT : Bool} {evy : Nat} (hn : p.n = 0) :
    getColorFade target p bd bdT evy = if bdT then blend bd target (16 - evy) evy else bd :=
  if_neg (by simp [hn])

/-! ### The blend modes at a column -/

theorem execBlendOff_at (hs : s.seq = .line l (.compose c)) (b : BldCnt) :
    exec (.blendOff b) s =
      .next ((s.frameWrite l c (if (s.pixel c).n = 0 then s.backdrop else (s.pixel c).c0)).endCompose l c) := by
  rw [← topColor_eq]
  exact composeCol_at hs (fun p => getColorOff p s.backdrop)

theorem execBlendAlpha_at (hs : s.seq = .line l (.compose c)) (b : BldCnt) {col : Color15}
    (hcol : getColorAlpha (s.pixel c) s.backdrop b.bottomBackdrop s.eva s.evb = col) :
    exec (.blendAlpha b) s = .next ((s.frameWrite l c col).endCompose l c) :=
  hcol ▸ composeCol_at hs (fun p => getColorAlpha p s.backdrop b.bottomBackdrop s.eva s.evb)

/-- The two fades differ only in the color they fade to (R245, R246). -/
theorem execFade_at (hs : s.seq = .line l (.compose c)) (b : BldCnt) {e : Instr × Color15}
    (he : e ∈ [(Instr.blendWhite b, (0x7FFF : Color15)), (.blendBlack b, 0x0000)]) {col : Color15}
    (hcol : getColorFade e.2 (s.pixel c) s.backdrop b.topBackdrop s.evy = col) :
    exec e.1 s = .next ((s.frameWrite l c col).endCompose l c) := by
  subst hcol
  simp only [List.mem_cons, List.not_mem_nil, or_false] at he
  obtain rfl | rfl := he
  · exact composeCol_at hs (fun p => getColorFade 0x7FFF p s.backdrop b.topBackdrop s.evy)
  · exact composeCol_at hs (fun p => getColorFade 0x0000 p s.backdrop b.topBackdrop s.evy)

/-- Settles O42: the color of each kind of Pixel, by the layers offered and their flags. -/
theorem blendOffAndAlphaComposeTheColumn : Obligations.BlendOffAndAlphaComposeTheColumn :=
  fun _ _ _ b hs => ⟨execBlendOff_at hs b,
    fun _ hn hc1 => execBlendAlpha_at hs b (getColorAlpha_both hn hc1),
    fun hn hc1 => execBlendAlpha_at hs b (getColorAlpha_dropped hn hc1),
    fun hn ht hb => execBlendAlpha_at hs b (getColorAlpha_backdrop hn ht hb),
    fun hn hoff => execBlendAlpha_at hs b (getColorAlpha_single hn hoff),
    fun hn => execBlendAlpha_at hs b (getColorAlpha_empty hn)⟩

/-- Settles O43: the color of a written and of an empty Pixel, and both fades channel by channel. -/
theorem fadesTowardsWhiteAndBlack : Obligations.FadesTowardsWhiteAndBlack :=
  fun s _ _ b hs => ⟨fun _ he =>
      ⟨fun hn => execFade_at hs b he (getColorFade_written hn),
        fun hn ht => execFade_at hs b he ((getColorFade_empty hn).trans (if_pos ht)),
        fun hn ht => execFade_at hs b he ((getColorFade_empty hn).trans (if_neg (Bool.eq_false_iff.1 ht)))⟩,
    fun _ hch col => ⟨channel_fade_white hch s col, channel_fade_black hch s col⟩⟩

end Sys2Proof.Machine
end

section
/-! SUPPORT. The exceptions (R260–R268): that a line never stops, the three places a fatal reason is raised, and where
RENDER does not run. -/

namespace Sys2Proof.Machine

open Reference

/-! ### A line goes on -/

/-- A position that agrees with the state is one a line can go on from. -/
theorem Phase.drawOk_of_ok {s : State} {ph : Phase} (h : ph.ok s) : ph.drawOk s := by
  cases ph with
  | draw => exact h
  | select | compose => trivial

/-- Settles O8: in a good state the word of the position is fetched whole, and the instruction it is decoded to
completes there. -/
theorem everyStepOfALineGoesOn : Obligations.EveryStepOfALineGoesOn := by
  rintro s hI ⟨l, ph, hs⟩ hd
  obtain ⟨i, hi, hstep, -⟩ := step_runs_instr hs (hd l ph hs) (Phase.drawOk_of_ok (hI.phase_ok hs))
  obtain ⟨t, ht, -⟩ := exec_completes hs hi
  exact ⟨t, hstep.trans ht⟩

/-! ### Requests that do not run -/

/-- In FAULT a RENDER has no step (R268). -/
theorem execRender_of_seq_fault {s : State} (hs : s.seq = .fault) : exec .render s = .fault .stuckInFault := by
  simp only [exec, execRender, hs]

/-- Outside a request, a RENDER with a fault recorded has no step (R268). -/
theorem execRender_of_fault {s : State} (hs : ¬s.inLine) (hf : s.fault.isSome = true) :
    exec .render s = .fault .stuckInFault := by
  obtain ⟨r, hr⟩ := Option.isSome_iff_exists.1 hf
  cases hq : s.seq with
  | line l ph => exact absurd ⟨l, ph, hq⟩ hs
  | idle | done => simp only [exec, execRender, hq, hr]
  | fault => exact execRender_of_seq_fault hq

/-- During a request RENDER is refused (R224). -/
theorem execRender_of_inLine {s : State} (hs : s.inLine) : exec .render s = .refused .requestInProgress := by
  obtain ⟨l, ph, hq⟩ := hs
  simp only [exec, execRender, hq]

/-- Settles O10: RENDER in FAULT, with a fault recorded, and during a request. -/
theorem renderElsewhereDoesNotRun : Obligations.RenderElsewhereDoesNotRun :=
  fun _ => ⟨execRender_of_seq_fault, execRender_of_fault, execRender_of_inLine⟩

/-! ### Where a reason is raised -/

section Raise

variable {s t : State} {l : Fin 160} {e : Fin 128}

/-- The mode dispatch of a line in mode 3–7 raises BadMode, after the row is emptied (R262). -/
theorem exec_decodeBgMode_of_three_le (hs : s.seq = .line l (.select .mode)) {w : Half}
    (h : 3 ≤ (DispCnt.ofWord w).bgMode.toNat) :
    exec (decodeBgMode w) s = .next (s.startLine.raiseFatal .badMode) := by
  have h2 : (DispCnt.ofWord w).bgMode ≠ 2 := by
    intro h2
    rw [h2] at h
    exact absurd h (by decide)
  rw [exec_decodeBgMode, if_neg (by omega), if_neg h2]
  exact badMode_at hs

/-- The mode dispatch of a line records a fault in mode 3–7 only (R262). -/
theorem exec_decodeBgMode_fault (hs : s.seq = .line l (.select .mode)) {w : Half}
    (h : exec (decodeBgMode w) s = .next t) :
    t.fault = if 3 ≤ (DispCnt.ofWord w).bgMode.toNat then some .badMode else s.fault := by
  split
  next h3 =>
    rw [exec_decodeBgMode_of_three_le hs h3] at h
    cases h
    rfl
  next h3 =>
    rw [exec_decodeBgMode] at h
    split at h
    next =>
      rw [startM01_at hs] at h
      cases h
      split <;> simp
    next h01 =>
      rw [if_pos (BitVec.eq_of_toNat_eq (show _ = 2 by omega)), execMode2_at hs] at h
      cases h
      simp

/-- The graphics mode of an entry records a fault only when it is the prohibited one (R188, R265). -/
theorem exec_decodeObjGfx_fault (hs : s.seq = .line l (.select (.gfx e))) {w : Half}
    (h : exec (decodeObjGfx w) s = .next t) :
    t.fault = if (Attr0.ofWord w).gfx = 3 then some .badObjMode else s.fault := by
  rw [exec_decodeObjGfx_scan hs] at h
  cases h
  split
  next h2 =>
    rw [if_neg (by rw [h2]; decide)]
    simp
  next => split <;> simp

/-- Every shape but the prohibited one has a size (R96). -/
theorem sizeTable_isSome : ∀ shape size : BitVec 2, shape ≠ 3 → (sizeTable shape size).isSome = true := by decide

/-- The size of an entry records a fault only when its shape is the prohibited one (R188, R265). -/
theorem exec_decodeObjSize_fault (hs : s.seq = .line l (.select (.size e))) {w0 w1 : Half}
    (h : exec (decodeObjSize w0 w1) s = .next t) :
    t.fault = if (Attr0.ofWord w0).shape = 3 then some .badObjShape else s.fault := by
  split
  next h3 =>
    rw [exec_decodeObjSize_of_shape_three hs h3] at h
    cases h
    rfl
  next h3 =>
    obtain ⟨wh, hwh⟩ := Option.isSome_iff_exists.1 (sizeTable_isSome _ (Attr1.ofWord w1).size h3)
    rw [exec_decodeObjSize hs, hwh, Option.elim_some, sizedObj_at hs] at h
    cases h
    split <;> simp

end Raise

/-- Settles O13: MODE3–MODE7 are the bad modes' meaning, and a line in one of these modes is decoded to one of them. -/
theorem badModesTakeTheFault : Obligations.BadModesTakeTheFault := by
  intro s l d hs
  refine ⟨fun i hi => ?_, fun hd h3 => ?_⟩
  · have hbad : exec i s = badMode s := by
      simp only [List.mem_cons, List.not_mem_nil, or_false] at hi
      rcases hi with rfl | rfl | rfl | rfl | rfl <;> rfl
    exact hbad.trans (badMode_at hs)
  · exact (stepReadsEachSelectorFromItsWord s l _ hs (hd l _ hs)).trans (exec_decodeBgMode_of_three_le hs h3)

section Raised

variable {s t : State} {l : Fin 160} {ph : Phase}

/-- No move of the host changes the fault record (R268, R269). -/
theorem step_outside_fault (hs : ¬s.inLine) (h : step s = .next t) : t.fault = s.fault := by
  obtain ⟨w, more, -, -, rfl⟩ | ⟨k, more, -, rfl⟩ | ⟨more, -, -, -, rfl⟩ | rfl := step_outside hs h <;> rfl

/-- A step that changes the fault record is not a write of the hook. -/
theorem hookDue_none_of_fault_ne (hs : s.seq = .line l ph) (h : step s = .next t) (hne : t.fault ≠ s.fault) :
    s.hookDue l ph = none := by
  cases hd : s.hookDue l ph with
  | none => rfl
  | some due =>
    obtain ⟨w, s'⟩ := due
    obtain ⟨-, -, -, rest, -, -, rfl⟩ := hookDue_some hd
    rw [step_of_hookDue hs hd, hostWrite_legal] at h
    exact absurd (congrArg State.fault h.2) hne

/-- A move of a line changes the fault record only at the mode dispatch and at an entry's GFX and SHAPE checks (R262,
R265). -/
theorem LineMove.raises_at {i : Instr} (hm : LineMove s l i ph t) (hne : t.fault ≠ s.fault) :
    ph = .select .mode ∨ (∃ e, ph = .select (.gfx e)) ∨ ∃ e, ph = .select (.size e) := by
  cases hm with
  | badMode => exact .inl rfl
  | badObjMode e => exact .inr (.inl ⟨e, rfl⟩)
  | badObjShape e => exact .inr (.inr ⟨e, rfl⟩)
  | textTexel _ _ _ _ _ _ _ hu | affTexel _ _ _ _ _ _ _ hu =>
    refine absurd ?_ hne
    rcases hu with rfl | rfl <;> simp
  | _ => exact absurd (by simp) hne

/-- A step of a line that changes the fault record stands at one of the three checks. -/
theorem step_raises_at (hs : s.seq = .line l ph) (h : step s = .next t) (hne : t.fault ≠ s.fault) :
    ph = .select .mode ∨ (∃ e, ph = .select (.gfx e)) ∨ ∃ e, ph = .select (.size e) := by
  obtain ⟨_, _, _, hw⟩ | ⟨_, -, hm⟩ := step_line hs h
  · exact absurd (congrArg State.fault hw.next) hne
  · exact hm.raises_at hne

/-- What a check records is its own reason, under its own condition. -/
theorem raised_of_ite {p : Prop} [Decidable p] {a r : FatalReason} (hf : s.fault = none) (hr : t.fault = some r)
    (h : t.fault = if p then some a else s.fault) : r = a ∧ p := by
  rw [hr, hf, eq_comm, Option.ite_none_right_eq_some] at h
  exact ⟨(Option.some.inj h.2).symm, h.1⟩

end Raised

/-- Settles O53: a reason is raised by a step of a line, at one of the three checks, whose instruction records its own
reason under its field's value. -/
theorem onlyThreeReasonsAreRaised : Obligations.OnlyThreeReasonsAreRaised := by
  intro s t r hf h hr
  have hne : t.fault ≠ s.fault := by
    rw [hf, hr]
    nofun
  have hline : s.inLine := by
    by_contra hs
    exact hne (step_outside_fault hs h)
  obtain ⟨l, ph, hs⟩ := hline
  have hread := stepReadsEachSelectorFromItsWord s l ph hs (hookDue_none_of_fault_ne hs h hne)
  obtain rfl | ⟨e, rfl⟩ | ⟨e, rfl⟩ := step_raises_at hs h hne
  · obtain ⟨rfl, h3⟩ := raised_of_ite hf hr (exec_decodeBgMode_fault hs (hread.symm.trans h))
    exact .inl ⟨rfl, l, hs, h3⟩
  · obtain ⟨rfl, h3⟩ := raised_of_ite hf hr (exec_decodeObjGfx_fault hs (hread.symm.trans h))
    exact .inr (.inl ⟨rfl, l, e, hs, h3⟩)
  · obtain ⟨rfl, h3⟩ := raised_of_ite hf hr (exec_decodeObjSize_fault hs (hread.symm.trans h))
    exact .inr (.inr ⟨rfl, l, e, hs, h3⟩)

end Sys2Proof.Machine
end
